-- ==== Sys2Proof/Word.lean ====
section
/-! DEFINITION. The word types of the block (spec/00_scope.md R5): a stream element is 8 bits, an
instruction word 16, a register index 5. Bit 0 is the least significant bit (00_scope.md section 6). -/

namespace Sys2Proof

/-- One element of the byte stream; `BYTE_BITS` of 00_scope.md R5. -/
abbrev Byte := BitVec 8

/-- One instruction word; `WORD_BITS` of 00_scope.md R5 and R34. -/
abbrev Word := BitVec 16

/-- A register index, a number 0 to 31 placed in a record; never a read of a register (10_state.md R7). -/
abbrev RegIndex := BitVec 5

/-- A text of the Renderer: 7-bit characters, one byte each (47_renderer.md R84). -/
abbrev Text := List Char

end Sys2Proof
end

