-- ==== Sys2Proof/Config.lean ====
section
/-! DEFINITION. What is fixed for the hardware: the vocabulary of the catalog (forms, formats, entries), the
parameters of spec/00_scope.md R5 that a model may take as arguments, and the one free value. The catalog's
numbers themselves stand in Sys2Proof/Decode.lean. -/

namespace Sys2Proof

/-- The form tag, 14 values (40_matcher_extractor.md R50). -/
inductive Form where
  | unknown
  | nop
  | clr
  | ldi
  | cpi
  | sbiw
  | ldXinc
  | ldYinc
  | ldXdec
  | inc
  | dec
  | mov
  | cp
  | brne
deriving DecidableEq, Repr

/-- The seven formats, that is the field layouts (30_encoding.md R36). -/
inductive Format where
  /-- all 16 bits fixed -/
  | fixed
  /-- `0010 01xd dddd xxxx` -/
  | clr1
  /-- `oooo KKKK dddd KKKK` -/
  | imm8
  /-- `1001 0111 KKpp KKKK` -/
  | pair
  /-- `1001 0ood dddd ssss` -/
  | unary
  /-- `oooo oord dddd rrrr` -/
  | reg2
  /-- `1111 01kk kkkk k001` -/
  | br7
deriving DecidableEq, Repr

/-- One recognized instruction form: `mask`, `pattern` and field layout (30_encoding.md R38, the columns of
its table). -/
structure CatalogEntry where
  /-- place in the fixed priority order, 1 to 13 -/
  prio : Nat
  /-- priority class, 1 to 7 (R39) -/
  cls : Nat
  form : Form
  mask : Word
  pattern : Word
  format : Format
deriving DecidableEq, Repr

/-- `TRUNC_POLICY` (00_scope.md R5): what is recorded when the last byte of a stream has no partner. The two
values differ only in `err_truncated`. -/
inductive TruncPolicy where
  | dropAndFlag
  | dropSilently
deriving DecidableEq, Repr

/-- The parameters of 00_scope.md R5 that a model may take as arguments. This hardware's value is
`Config.hardware` in Sys2Proof/Decode.lean. -/
structure Config where
  catalog : List CatalogEntry
  truncPolicy : TruncPolicy
  newline : Text
deriving DecidableEq, Repr

/-- The content of `lo` after the n-th reset cycle. The spec gives it no value (10_state.md R17,
70_reset_and_hazards.md R99, treatment `any value` of 93_implementation_defined.md U3): a free value, no body
(log entry 2). -/
opaque Config.freeLo : Nat → Byte

end Sys2Proof
end

