-- ==== Sys2Proof/Syntax.lean ====
section
/-! DEFINITION. The instructions: one constructor per row of spec/opcode_table.json, holding exactly the
operands of that row's Decoded Record (40_matcher_extractor.md R50, R51: "a tagged union: one variant per form"). -/

namespace Sys2Proof

/-- The decoded instruction word. `rd`, `rr` are register indices, `k` the immediate, `off` BRNE's offset as a
two's complement byte. CLR also keeps its five ignored bits `x` = {`w[9]`, `w[3:0]`}, which the record's `raw`
shows (41_class1_2_nop_clr.md R64; log entry 6). -/
inductive Instr where
  /-- R63 -/
  | nop
  /-- R64 -/
  | clr (rd : RegIndex) (x : BitVec 5)
  /-- R65 -/
  | ldi (rd : RegIndex) (k : Byte)
  /-- R66 -/
  | cpi (rd : RegIndex) (k : Byte)
  /-- R67 -/
  | sbiw (rd : RegIndex) (k : Byte)
  /-- R68 -/
  | ldXinc (rd : RegIndex)
  /-- R69 -/
  | ldYinc (rd : RegIndex)
  /-- R70 -/
  | ldXdec (rd : RegIndex)
  /-- R71 -/
  | inc (rd : RegIndex)
  /-- R72 -/
  | dec (rd : RegIndex)
  /-- R73 -/
  | mov (rd rr : RegIndex)
  /-- R74 -/
  | cp (rd rr : RegIndex)
  /-- R75 -/
  | brne (off : Byte)
  /-- R76 -/
  | unknown (raw : Word)
deriving DecidableEq, Repr

end Sys2Proof
end

