-- ==== Sys2Proof/WellFormed.lean ====
section
/-! DEFINITION. Which instructions a word can stand for: the operand ranges of spec/10_state.md R7 and of the
per-form rules R63 to R76. -/

namespace Sys2Proof

/-- The word satisfies none of the tests of 46_unrecognized.md R76, written out there as masks and patterns. -/
def Instr.unmatched (w : Word) : Bool :=
  w != 0x0000#16 &&
  !([0x2400#16, 0x2C00#16, 0x1400#16].contains (w &&& 0xFC00#16)) &&
  !([0xE000#16, 0x3000#16].contains (w &&& 0xF000#16)) &&
  w &&& 0xFF00#16 != 0x9700#16 &&
  !([0x900D#16, 0x9009#16, 0x900E#16, 0x9403#16, 0x940A#16].contains (w &&& 0xFE0F#16)) &&
  w &&& 0xFC07#16 != 0xF401#16

/-- The operands are values the form's encoding can hold: LDI and CPI address R16 to R31 (R65, R66); SBIW
addresses R24, R26, R28, R30 with a literal of at most 63 (R67); BRNE's offset is -63 to 64 (R75); UNKNOWN carries
a word that no catalog entry matches (R76). The other forms admit every operand. -/
def Instr.wf : Instr → Bool
  | .nop => true
  | .clr _ _ => true
  | .ldi rd _ => 16 ≤ rd.toNat
  | .cpi rd _ => 16 ≤ rd.toNat
  | .sbiw rd k => [24#5, 26#5, 28#5, 30#5].contains rd && k.toNat ≤ 63
  | .ldXinc _ => true
  | .ldYinc _ => true
  | .ldXdec _ => true
  | .inc _ => true
  | .dec _ => true
  | .mov _ _ => true
  | .cp _ _ => true
  | .brne off => -63 ≤ off.toInt && off.toInt ≤ 64
  | .unknown raw => Instr.unmatched raw

end Sys2Proof
end

