-- ==== Sys2Proof/Decode.lean ====
section
/-! DEFINITION. The Instruction Matcher and the Field Extractor (spec/30_encoding.md R34 to R46,
spec/40_matcher_extractor.md R48 to R58): the catalog, the match, the operand primitives, the decoder, and after it
the encoder written from the same format strings. -/

namespace Sys2Proof

/-! ### The catalog and the match -/

/-- The thirteen entries in priority order (R38). -/
def catalog : List CatalogEntry :=
  [ ⟨1, 1, .nop, 0xFFFF#16, 0x0000#16, .fixed⟩,
    ⟨2, 2, .clr, 0xFC00#16, 0x2400#16, .clr1⟩,
    ⟨3, 3, .ldi, 0xF000#16, 0xE000#16, .imm8⟩,
    ⟨4, 3, .cpi, 0xF000#16, 0x3000#16, .imm8⟩,
    ⟨5, 4, .sbiw, 0xFF00#16, 0x9700#16, .pair⟩,
    ⟨6, 5, .ldXinc, 0xFE0F#16, 0x900D#16, .unary⟩,
    ⟨7, 5, .ldYinc, 0xFE0F#16, 0x9009#16, .unary⟩,
    ⟨8, 5, .ldXdec, 0xFE0F#16, 0x900E#16, .unary⟩,
    ⟨9, 5, .inc, 0xFE0F#16, 0x9403#16, .unary⟩,
    ⟨10, 5, .dec, 0xFE0F#16, 0x940A#16, .unary⟩,
    ⟨11, 6, .mov, 0xFC00#16, 0x2C00#16, .reg2⟩,
    ⟨12, 6, .cp, 0xFC00#16, 0x1400#16, .reg2⟩,
    ⟨13, 7, .brne, 0xFC07#16, 0xF401#16, .br7⟩ ]

/-- The value of the parameters this hardware has (00_scope.md R5). -/
def Config.hardware : Config :=
  { catalog := Sys2Proof.catalog, truncPolicy := .dropAndFlag, newline := ['\n'] }

/-- The match predicate (R37); the mask is applied on the pattern side too (R46). -/
def CatalogEntry.accepts (e : CatalogEntry) (w : Word) : Bool :=
  w &&& e.mask == e.pattern &&& e.mask

/-- The first entry of `cat` that matches, in the order of the list (R39, R48). -/
def firstMatch (cat : List CatalogEntry) (w : Word) : Option CatalogEntry :=
  cat.find? (·.accepts w)

/-- `match(w)` over a catalog (R48): the form of the first match, UNKNOWN when there is none (R43). -/
def matchForm (cat : List CatalogEntry) (w : Word) : Form :=
  match firstMatch cat w with
  | some e => e.form
  | none => .unknown

/-! ### The operand primitives -/

/-- `reg_d5(w) = w[8:4]` (R52). -/
def regD5 (w : Word) : RegIndex := w.extractLsb' 4 5

/-- `reg_r5(w)`: `w[9]` above `w[3:0]` (R53). -/
def regR5 (w : Word) : RegIndex := w.extractLsb' 9 1 ++ w.extractLsb' 0 4

/-- `reg_hi(w) = 16 + w[7:4]` (R54). -/
def regHi (w : Word) : RegIndex := 16#5 + (w.extractLsb' 4 4).setWidth 5

/-- `reg_pair(w) = 24 + 2 * w[5:4]` (R55). -/
def regPair (w : Word) : RegIndex := 24#5 + 2#5 * (w.extractLsb' 4 2).setWidth 5

/-- `imm8(w)`: `w[11:8]` above `w[3:0]` (R56). -/
def imm8 (w : Word) : Byte := w.extractLsb' 8 4 ++ w.extractLsb' 0 4

/-- `imm6(w)`: `w[7:6]` above `w[3:0]`, zero-extended to 8 bits (R57). -/
def imm6 (w : Word) : Byte := (w.extractLsb' 6 2 ++ w.extractLsb' 0 4).setWidth 8

/-- `rel7(w)`: `w[9:3]` sign-extended to 8 bits, plus one (R58), as the two's complement byte of `out_off`. -/
def rel7 (w : Word) : Byte := (w.extractLsb' 3 7).signExtend 8 + 1#8

/-- The five bits of a CLR word that are neither matched nor extracted, `w[9]` above `w[3:0]` (R36, R64). -/
def clrIgnored (w : Word) : BitVec 5 := w.extractLsb' 9 1 ++ w.extractLsb' 0 4

/-! ### The decoder -/

/-- The form tag of an instruction (R50). -/
def Instr.form : Instr → Form
  | .nop => .nop
  | .clr _ _ => .clr
  | .ldi _ _ => .ldi
  | .cpi _ _ => .cpi
  | .sbiw _ _ => .sbiw
  | .ldXinc _ => .ldXinc
  | .ldYinc _ => .ldYinc
  | .ldXdec _ => .ldXdec
  | .inc _ => .inc
  | .dec _ => .dec
  | .mov _ _ => .mov
  | .cp _ _ => .cp
  | .brne _ => .brne
  | .unknown _ => .unknown

/-- The instruction a word of the given form stands for: the dispatcher of R49. -/
def extractInstr (f : Form) (w : Word) : Instr :=
  match f with
  | .unknown => .unknown w
  | .nop => .nop
  | .clr => .clr (regD5 w) (clrIgnored w)
  | .ldi => .ldi (regHi w) (imm8 w)
  | .cpi => .cpi (regHi w) (imm8 w)
  | .sbiw => .sbiw (regPair w) (imm6 w)
  | .ldXinc => .ldXinc (regD5 w)
  | .ldYinc => .ldYinc (regD5 w)
  | .ldXdec => .ldXdec (regD5 w)
  | .inc => .inc (regD5 w)
  | .dec => .dec (regD5 w)
  | .mov => .mov (regD5 w) (regR5 w)
  | .cp => .cp (regD5 w) (regR5 w)
  | .brne => .brne (rel7 w)

/-- `decode` of this hardware's catalog, total over all words (R49, R59). -/
def decode (w : Word) : Instr := extractInstr (matchForm catalog w) w

/-- Why a byte sequence yields no word: a word takes two consecutive bytes (R34, 20_memory.md R21). -/
inductive DecodeReject where
  /-- no byte is left -/
  | noByte
  /-- one byte is left: the trailing byte of an odd-length stream (20_memory.md R22) -/
  | oneByte (b : Byte)
deriving DecidableEq, Repr

/-- A word from its two bytes, the first one in the low half (20_memory.md R20). -/
def wordOfBytes (lo hi : Byte) : Word := hi ++ lo

/-- The low byte `w[7:0]` and the high byte `w[15:8]` of a word, in stream order (20_memory.md R20). -/
def lowByte (w : Word) : Byte := w.extractLsb' 0 8

@[inherit_doc lowByte] def highByte (w : Word) : Byte := w.extractLsb' 8 8

/-- Decoding from a byte sequence: the instruction of the first word and the bytes after it. Total; a sequence
with fewer than two bytes is rejected by name. -/
def decodeBytes : List Byte → Except DecodeReject (Instr × List Byte)
  | [] => .error .noByte
  | [b] => .error (.oneByte b)
  | lo :: hi :: rest => .ok (decode (wordOfBytes lo hi), rest)

/-! ### The encoder -/

/-- The word of an instruction, the format strings of R36 with the patterns of R38 filled in, leftmost bit first.
On operands outside `Instr.wf` the bits that have no place in the word are dropped. -/
def encode : Instr → Word
  | .nop => 0b0000000000000000#16
  | .clr rd x => 0b001001#6 ++ x.extractLsb' 4 1 ++ rd ++ x.extractLsb' 0 4
  | .ldi rd k => 0b1110#4 ++ k.extractLsb' 4 4 ++ rd.extractLsb' 0 4 ++ k.extractLsb' 0 4
  | .cpi rd k => 0b0011#4 ++ k.extractLsb' 4 4 ++ rd.extractLsb' 0 4 ++ k.extractLsb' 0 4
  | .sbiw rd k => 0b10010111#8 ++ k.extractLsb' 4 2 ++ rd.extractLsb' 1 2 ++ k.extractLsb' 0 4
  | .ldXinc rd => 0b1001000#7 ++ rd ++ 0b1101#4
  | .ldYinc rd => 0b1001000#7 ++ rd ++ 0b1001#4
  | .ldXdec rd => 0b1001000#7 ++ rd ++ 0b1110#4
  | .inc rd => 0b1001010#7 ++ rd ++ 0b0011#4
  | .dec rd => 0b1001010#7 ++ rd ++ 0b1010#4
  | .mov rd rr => 0b001011#6 ++ rr.extractLsb' 4 1 ++ rd ++ rr.extractLsb' 0 4
  | .cp rd rr => 0b000101#6 ++ rr.extractLsb' 4 1 ++ rd ++ rr.extractLsb' 0 4
  | .brne off => 0b111101#6 ++ (off - 1#8).extractLsb' 0 7 ++ 0b001#3
  | .unknown raw => raw

/-- The bytes of an instruction in stream order (20_memory.md R20). -/
def encodeBytes (i : Instr) : List Byte := [lowByte (encode i), highByte (encode i)]

/-! ### The opcode table's numbering -/

/-- The first two bytes in stream order of an instruction whose bits are `w`, bit 0 being bit 0 of its word; the
bits from `nbits` on are zero. -/
def tableBytes (nbits w : Nat) : List Byte :=
  let word : Word := BitVec.ofNat 16 (w % 2 ^ nbits)
  [lowByte word, highByte word]

/-- The instruction the decoder reads from an opcode-table word. -/
def decodeTableWord (nbits w : Nat) : Option Instr :=
  match decodeBytes (tableBytes nbits w) with
  | .ok (i, _) => some i
  | .error _ => none

end Sys2Proof
end

