-- ==== Sys2Proof/Machine/State.lean ====
section
/-! DEFINITION. The state of the block as plain data: the triple of spec/10_state.md R17, the port cycles the
environment has still to drive, the port values of the cycle just taken, and the history of emitted records. -/

namespace Sys2Proof.Machine

/-- `phase`, one bit (10_state.md R13): which half of a word the next accepted byte is. -/
inductive Phase where
  /-- 0: the next byte accepted is the low byte of a word -/
  | low
  /-- 1: a low byte is held and the next byte accepted is its high byte -/
  | high
deriving DecidableEq, Repr

/-- The Decoded Record, the six fields of 40_matcher_extractor.md R51. -/
structure Record where
  form : Form
  rd : RegIndex
  rr : RegIndex
  k : Byte
  /-- BRNE's offset in two's complement -/
  off : Byte
  raw : Word
deriving DecidableEq, Repr

/-- The input ports in one clock cycle (20_memory.md section 8). -/
structure PortIn where
  rst : Bool
  inValid : Bool
  inByte : Byte
  inLast : Bool
deriving DecidableEq, Repr

/-- A cycle in which the environment drives nothing: `rst` and `in_valid` are 0. -/
def PortIn.idle : PortIn := { rst := false, inValid := false, inByte := 0#8, inLast := false }

/-- The output ports in one clock cycle (20_memory.md section 8, R32; widths of 40_matcher_extractor.md R51). -/
structure PortOut where
  outValid : Bool
  outForm : BitVec 4
  outRd : RegIndex
  outRr : RegIndex
  outK : Byte
  outOff : Byte
  outRaw : Word
  errTruncated : Bool
deriving DecidableEq, Repr

/-- The state. `phase`, `lo`, `errTruncated` are the whole state of the block (10_state.md R17, R18). The other
fields are the model's: the environment's coming cycles (log entry 3), the outputs of the cycle just taken (log
entry 4), the history of emitted records (log entry 5), the counter behind the free value of `lo` (log entry 2). -/
structure State where
  /-- R13 -/
  phase : Phase
  /-- R13: the held low byte, meaningful only while `phase` is `high` -/
  lo : Byte
  /-- R14: the fault bit -/
  errTruncated : Bool
  /-- the cycles the environment drives from now on, the next one first; after them it drives nothing -/
  pending : List PortIn
  /-- the output ports during the cycle just taken -/
  out : PortOut
  /-- every record emitted so far, the oldest first -/
  emitted : List Record
  /-- how many reset cycles have been taken -/
  resets : Nat
deriving DecidableEq, Repr

/-- Why the machine would stop. It never does: "Nothing stops it" (93_implementation_defined.md Part 1), and
TruncatedStream is a state bit after which the block goes on (60_exceptions.md R87, R92). So there is no fault:
the type is empty (log entry 14; safe or unsafe: neither, nothing can raise it). -/
inductive Fault where
deriving DecidableEq, Repr

/-- Why an instruction would have no meaning. -/
inductive Refusal where
  /-- raised by no arm of `exec`: the interface's name for an instruction without a meaning (safe) -/
  | notModelled (mnemonic : String)
deriving DecidableEq, Repr

/-- The machine right after reset (10_state.md R17): `phase` 0, `err_truncated` 0, no record presented. R17
gives `lo` no value: 0 is the model's (log entry 1). No cycle is pending: a program is presented from outside
(log entry 3). -/
def State.reset : State :=
  { phase := .low
    lo := 0#8
    errTruncated := false
    pending := []
    out :=
      { outValid := false, outForm := 0#4, outRd := 0#5, outRr := 0#5, outK := 0#8, outOff := 0#8,
        outRaw := 0#16, errTruncated := false }
    emitted := []
    resets := 0 }

end Sys2Proof.Machine
end

