-- ==== Sys2Proof/Machine/Operands.lean ====
section
/-! DEFINITION. The Decoded Record: its field forms, its codes on the ports, and `decode(w)` as a record, written
from spec/40_matcher_extractor.md R49 to R51 over a catalog given as an argument (10_state.md R16). -/

namespace Sys2Proof.Machine

/-- The code of a form on `out_form` (R50). -/
def formCode : Form → BitVec 4
  | .unknown => 0#4
  | .nop => 1#4
  | .clr => 2#4
  | .ldi => 3#4
  | .cpi => 4#4
  | .sbiw => 5#4
  | .ldXinc => 6#4
  | .ldYinc => 7#4
  | .ldXdec => 8#4
  | .inc => 9#4
  | .dec => 10#4
  | .mov => 11#4
  | .cp => 12#4
  | .brne => 13#4

/-! ### `rec(form, ...)`: fields not named are 0 (R49, R51) -/

/-- A record with no operand. -/
def recNone (f : Form) (raw : Word) : Record :=
  { form := f, rd := 0#5, rr := 0#5, k := 0#8, off := 0#8, raw := raw }

/-- A record with the operand `rd`. -/
def recRd (f : Form) (rd : RegIndex) (raw : Word) : Record := { recNone f raw with rd := rd }

/-- A record with the operands `rd` and `k`. -/
def recRdK (f : Form) (rd : RegIndex) (k : Byte) (raw : Word) : Record :=
  { recNone f raw with rd := rd, k := k }

/-- A record with the operands `rd` and `rr`. -/
def recRdRr (f : Form) (rd rr : RegIndex) (raw : Word) : Record :=
  { recNone f raw with rd := rd, rr := rr }

/-- A record with the operand `off`. -/
def recOff (f : Form) (off : Byte) (raw : Word) : Record := { recNone f raw with off := off }

/-- The Field Extractor: the record of a word under a format's field layout (30_encoding.md R36, R38; 40 R52 to
R58). -/
def extractRecord (fmt : Format) (f : Form) (w : Word) : Record :=
  match fmt with
  | .fixed => recNone f w
  | .clr1 => recRd f (regD5 w) w
  | .imm8 => recRdK f (regHi w) (imm8 w) w
  | .pair => recRdK f (regPair w) (imm6 w) w
  | .unary => recRd f (regD5 w) w
  | .reg2 => recRdRr f (regD5 w) (regR5 w) w
  | .br7 => recOff f (rel7 w) w

/-- `decode(w)` as a record, over a catalog (R49): the first match's layout, or UNKNOWN with the raw word. -/
def decodeRecord (cat : List CatalogEntry) (w : Word) : Record :=
  match firstMatch cat w with
  | some e => extractRecord e.format e.form w
  | none => recNone .unknown w

/-- The record outputs when no record is presented are 0 (20_memory.md R32); `err_truncated` is the state bit
(10_state.md R10, R14). -/
def portsQuiet (err : Bool) : PortOut :=
  { outValid := false, outForm := 0#4, outRd := 0#5, outRr := 0#5, outK := 0#8, outOff := 0#8,
    outRaw := 0#16, errTruncated := err }

/-- The output ports in the cycle of a record (20_memory.md R32, 40_matcher_extractor.md R50, R51). -/
def portsOfRecord (r : Record) (err : Bool) : PortOut :=
  { outValid := true, outForm := formCode r.form, outRd := r.rd, outRr := r.rr, outK := r.k,
    outOff := r.off, outRaw := r.raw, errTruncated := err }

end Sys2Proof.Machine
end

