-- ==== Sys2Proof/Machine/Flags.lean ====
section
/-! DEFINITION. The block has no status flags (spec/10_state.md R9); its one bit of that character is the fault
bit `err_truncated` (R14), whose abstract error, code and rule stand here (60_exceptions.md R86, R87). -/

namespace Sys2Proof.Machine

/-- The error of a stream, `none | TruncatedStream` (60_exceptions.md R86). -/
inductive StreamErr where
  | none
  | truncatedStream
deriving DecidableEq, Repr

/-- The error's code: the value of the one-bit output read as a number (R86). -/
def StreamErr.code : StreamErr → BitVec 1
  | .none => 0#1
  | .truncatedStream => 1#1

/-- The error the fault bit stands for (R86). -/
def errOfBit (err : Bool) : StreamErr := if err then .truncatedStream else .none

/-- The fault bit after TruncatedStream was raised: set, and sticky (R87, R93); under `drop_silently` nothing is
recorded (00_scope.md R5). -/
def errAfterTruncation (p : TruncPolicy) (err : Bool) : Bool :=
  match p with
  | .dropAndFlag => true
  | .dropSilently => err

/-- The error of a stream of `L` bytes at function level (R87, 40_matcher_extractor.md R61). -/
def streamErr (p : TruncPolicy) (L : Nat) : StreamErr :=
  errOfBit (if L % 2 = 1 then errAfterTruncation p false else false)

end Sys2Proof.Machine
end

