-- ==== Sys2Proof/Machine/Ops.lean ====
section
/-! DEFINITION. The operations on State: emitting a record, and what a clock edge does in each case of the Word
Assembler step (spec/20_memory.md R32, R33; 60_exceptions.md R87; 70_reset_and_hazards.md R99). Taking the one
exception of the block is `raiseTruncatedStream`; there is no return from it (60_exceptions.md R93). -/

namespace Sys2Proof.Machine

/-- `emit(record)` (R32): in this cycle `out_valid` is 1 and the record outputs hold the record. -/
def emit (r : Record) (s : State) : State :=
  { s with out := portsOfRecord r s.errTruncated, emitted := s.emitted ++ [r] }

/-- A cycle in which no record is presented and nothing else happens (R33, `in_valid == 0`; R32). -/
def idleCycle (s : State) : State := { s with out := portsQuiet s.errTruncated }

/-- A low byte is accepted and held (R33, `phase == 0` and `in_last == 0`). -/
def holdLow (b : Byte) (s : State) : State :=
  { s with lo := b, phase := .high, out := portsQuiet s.errTruncated }

/-- `raise TruncatedStream` (R33, `phase == 0` and `in_last == 1`; 60_exceptions.md R87, R92): the byte is
dropped, the fault bit is set, nothing is saved and nothing else changes. The output port shows the bit from the
next cycle on (log entry 4). -/
def raiseTruncatedStream (p : TruncPolicy) (s : State) : State :=
  { s with errTruncated := errAfterTruncation p s.errTruncated, out := portsQuiet s.errTruncated }

/-- A high byte is accepted: the pair is complete and `phase` goes back to 0 (R33). -/
def acceptHigh (s : State) : State := { s with phase := .low }

/-- A reset cycle (70_reset_and_hazards.md R99, R100): `phase` and `err_truncated` become 0, the held byte is
discarded, no record is emitted. `lo` is unspecified: a fresh free value (log entry 2). -/
def resetCycle (s : State) : State :=
  { s with phase := .low, lo := Config.freeLo s.resets, errTruncated := false,
           out := portsQuiet s.errTruncated, resets := s.resets + 1 }

/-- What a clock edge does, by the inputs and the state (R33, R99). -/
inductive CycleEvent where
  /-- `rst == 1`: reset, whatever the other inputs are (R99) -/
  | reset
  /-- `in_valid == 0`: nothing is accepted -/
  | idle
  /-- a low byte is accepted -/
  | lowByte (b : Byte)
  /-- the last byte of a stream has no partner -/
  | truncated
  /-- a high byte completes the word `w` -/
  | word (w : Word)
deriving DecidableEq, Repr

/-- The case of R33 that the inputs and the state select; reset has priority over everything (60_exceptions.md
R91). -/
def cycleEvent (phase : Phase) (lo : Byte) (inp : PortIn) : CycleEvent :=
  if inp.rst then .reset
  else if !inp.inValid then .idle
  else
    match phase with
    | .low => if inp.inLast then .truncated else .lowByte inp.inByte
    | .high => .word (wordOfBytes lo inp.inByte)

/-- The inputs of the coming cycle: what the environment drives next, or nothing (60_exceptions.md R94). -/
def currentInput (s : State) : PortIn := s.pending.headD PortIn.idle

/-- The state as the coming cycle finds it, its inputs taken from the environment. -/
def takeInput (s : State) : State := { s with pending := s.pending.tail }

end Sys2Proof.Machine
end

