-- ==== Sys2Proof/Machine/Branch.lean ====
section
/-! DEFINITION. Priority class 7: BRNE (spec/45_class7_branch.md). No branch is taken and no target is formed. -/

namespace Sys2Proof.Machine

/-- BRNE offset (R75): `off` is already sign-extended and incremented. -/
def execBrne (off : Byte) (s : State) : Host.Outcome State Fault Refusal :=
  .next (emit (recOff .brne off (encode (.brne off))) s)

end Sys2Proof.Machine
end

