-- ==== Sys2Proof/Machine/Immediate.lean ====
section
/-! DEFINITION. Priority classes 3 and 4: LDI, CPI, SBIW (spec/42_class3_4_immediate.md). -/

namespace Sys2Proof.Machine

/-- LDI Rd,K (R65). -/
def execLdi (rd : RegIndex) (k : Byte) (s : State) : Host.Outcome State Fault Refusal :=
  .next (emit (recRdK .ldi rd k (encode (.ldi rd k))) s)

/-- CPI Rd,K (R66); the comparison is not performed. -/
def execCpi (rd : RegIndex) (k : Byte) (s : State) : Host.Outcome State Fault Refusal :=
  .next (emit (recRdK .cpi rd k (encode (.cpi rd k))) s)

/-- SBIW Rd,K (R67): Rd is the low register of the pair. -/
def execSbiw (rd : RegIndex) (k : Byte) (s : State) : Host.Outcome State Fault Refusal :=
  .next (emit (recRdK .sbiw rd k (encode (.sbiw rd k))) s)

end Sys2Proof.Machine
end

