-- ==== Sys2Proof/Machine/IndirectUnary.lean ====
section
/-! DEFINITION. Priority class 5: LD Rd,X+; LD Rd,Y+; LD Rd,-X; INC; DEC
(spec/43_class5_indirect_load_unary.md). The addressing mode is part of the form; no address is formed. -/

namespace Sys2Proof.Machine

/-- LD Rd,X+ (R68). -/
def execLdXinc (rd : RegIndex) (s : State) : Host.Outcome State Fault Refusal :=
  .next (emit (recRd .ldXinc rd (encode (.ldXinc rd))) s)

/-- LD Rd,Y+ (R69). -/
def execLdYinc (rd : RegIndex) (s : State) : Host.Outcome State Fault Refusal :=
  .next (emit (recRd .ldYinc rd (encode (.ldYinc rd))) s)

/-- LD Rd,-X (R70). -/
def execLdXdec (rd : RegIndex) (s : State) : Host.Outcome State Fault Refusal :=
  .next (emit (recRd .ldXdec rd (encode (.ldXdec rd))) s)

/-- INC Rd (R71); nothing is incremented. -/
def execInc (rd : RegIndex) (s : State) : Host.Outcome State Fault Refusal :=
  .next (emit (recRd .inc rd (encode (.inc rd))) s)

/-- DEC Rd (R72); nothing is decremented. -/
def execDec (rd : RegIndex) (s : State) : Host.Outcome State Fault Refusal :=
  .next (emit (recRd .dec rd (encode (.dec rd))) s)

end Sys2Proof.Machine
end

