-- ==== Sys2Proof/Machine/NopClr.lean ====
section
/-! DEFINITION. Priority classes 1 and 2: NOP, CLR (spec/41_class1_2_nop_clr.md). -/

namespace Sys2Proof.Machine

/-- NOP (R63): the record has no operand. -/
def execNop (s : State) : Host.Outcome State Fault Refusal :=
  .next (emit (recNone .nop (encode .nop)) s)

/-- CLR Rd (R64): the record has Rd; the ignored bits show in `raw` only. -/
def execClr (rd : RegIndex) (x : BitVec 5) (s : State) : Host.Outcome State Fault Refusal :=
  .next (emit (recRd .clr rd (encode (.clr rd x))) s)

end Sys2Proof.Machine
end

