-- ==== Sys2Proof/Machine/TwoRegister.lean ====
section
/-! DEFINITION. Priority class 6: MOV, CP (spec/44_class6_two_register.md). -/

namespace Sys2Proof.Machine

/-- MOV Rd,Rr (R73). -/
def execMov (rd rr : RegIndex) (s : State) : Host.Outcome State Fault Refusal :=
  .next (emit (recRdRr .mov rd rr (encode (.mov rd rr))) s)

/-- CP Rd,Rr (R74); the comparison is not performed. -/
def execCp (rd rr : RegIndex) (s : State) : Host.Outcome State Fault Refusal :=
  .next (emit (recRdRr .cp rd rr (encode (.cp rd rr))) s)

end Sys2Proof.Machine
end

