-- ==== Sys2Proof/Machine/Unrecognized.lean ====
section
/-! DEFINITION. The unrecognized word: UNKNOWN (spec/46_unrecognized.md). An ordinary record, not a fault
(60_exceptions.md R88). -/

namespace Sys2Proof.Machine

/-- UNKNOWN (R76): the record carries the raw word. -/
def execUnknown (raw : Word) (s : State) : Host.Outcome State Fault Refusal :=
  .next (emit (recNone .unknown (encode (.unknown raw))) s)

end Sys2Proof.Machine
end

