-- ==== Sys2Proof/Machine/Dispatch.lean ====
section
/-! DEFINITION. The dispatch of the instructions to their meanings, one arm per row of spec/opcode_table.json. -/

namespace Sys2Proof.Machine

/-- The effect of a decoded word: the record it emits (spec/40_matcher_extractor.md R49). -/
def exec (i : Instr) (s : State) : Host.Outcome State Fault Refusal :=
  match i with
  | .nop => Sys2Proof.Machine.execNop s
  | .clr rd x => Sys2Proof.Machine.execClr rd x s
  | .ldi rd k => Sys2Proof.Machine.execLdi rd k s
  | .cpi rd k => Sys2Proof.Machine.execCpi rd k s
  | .sbiw rd k => Sys2Proof.Machine.execSbiw rd k s
  | .ldXinc rd => Sys2Proof.Machine.execLdXinc rd s
  | .ldYinc rd => Sys2Proof.Machine.execLdYinc rd s
  | .ldXdec rd => Sys2Proof.Machine.execLdXdec rd s
  | .inc rd => Sys2Proof.Machine.execInc rd s
  | .dec rd => Sys2Proof.Machine.execDec rd s
  | .mov rd rr => Sys2Proof.Machine.execMov rd rr s
  | .cp rd rr => Sys2Proof.Machine.execCp rd rr s
  | .brne off => Sys2Proof.Machine.execBrne off s
  | .unknown raw => Sys2Proof.Machine.execUnknown raw s

end Sys2Proof.Machine
end

