-- ==== Sys2Proof/Machine/Assembler.lean ====
section
/-! DEFINITION. The Word Assembler step (spec/20_memory.md R33) with reset (70_reset_and_hazards.md R99), and the
placing of a word where the next step takes it. -/

namespace Sys2Proof.Machine

/-- One rising clock edge with the inputs `inp` (R33), under a `TRUNC_POLICY` (00_scope.md R5). In the cycle of a
high byte the assembled word is decoded and its record emitted. -/
def assemblerCycle (p : TruncPolicy) (inp : PortIn) (s : State) : Host.Outcome State Fault Refusal :=
  match cycleEvent s.phase s.lo inp with
  | .reset => .next (resetCycle s)
  | .idle => .next (idleCycle s)
  | .lowByte b => .next (holdLow b s)
  | .truncated => .next (raiseTruncatedStream p s)
  | .word w => exec (decode w) (acceptHigh s)

/-- The state in which the coming cycle completes the word with the bytes `lo`, `hi`: the low byte is held, and
the environment drives the high byte next, not marked as the last (log entry 13). -/
def placeBytes (lo hi : Byte) (s : State) : State :=
  { s with
    phase := .high
    lo := lo
    pending := { rst := false, inValid := true, inByte := hi, inLast := false } :: s.pending }

/-- `placeBytes` for an opcode-table word. -/
def placeTableWord (nbits w : Nat) (s : State) : State :=
  match tableBytes nbits w with
  | lo :: hi :: _ => placeBytes lo hi s
  | _ => s

end Sys2Proof.Machine
end

