-- ==== Sys2Proof/Machine/Step.lean ====
section
/-! DEFINITION. One step of the machine: one clock cycle with the inputs the environment drives next. -/

namespace Sys2Proof.Machine

/-- One clock cycle (spec/20_memory.md R33): the inputs are the head of `pending`, or none are driven; the
hardware's truncation policy is fixed (10_state.md R10). -/
def step (s : State) : Host.Outcome State Fault Refusal :=
  assemblerCycle Config.hardware.truncPolicy (currentInput s) (takeInput s)

/-- `s` with an opcode-table word placed so that the very next step decodes it (log entry 13). -/
def State.withFetchWord (s : State) (nbits w : Nat) : State := placeTableWord nbits w s

end Sys2Proof.Machine
end

