-- ==== Sys2Proof/Machine/Render.lean ====
section
/-! DEFINITION. The Renderer, a reference function over records and not a port of the block
(spec/00_scope.md R3, spec/47_renderer.md). A text is a list of characters. -/

namespace Sys2Proof.Machine

/-- `dec(n)`: decimal digits, no leading zero (00_scope.md section 6). -/
def dec (n : Nat) : Text := Nat.toDigits 10 n

/-- One hexadecimal digit, `A` to `F` in upper case (R79). -/
def hexDigit (d : BitVec 4) : Char :=
  ['0', '1', '2', '3', '4', '5', '6', '7', '8', '9', 'A', 'B', 'C', 'D', 'E', 'F'].getD d.toNat '0'

/-- `hex2(n)`: exactly two digits (R79). -/
def hex2 (b : Byte) : Text := [hexDigit (b.extractLsb' 4 4), hexDigit (b.extractLsb' 0 4)]

/-- `hex4(n)`: exactly four digits (R81). -/
def hex4 (w : Word) : Text := hex2 (highByte w) ++ hex2 (lowByte w)

/-- A register operand: `R` and the index in decimal (R78). -/
def regText (r : RegIndex) : Text := "R".toList ++ dec r.toNat

/-- An immediate operand: `0x` and two digits (R79). -/
def immText (k : Byte) : Text := "0x".toList ++ hex2 k

/-- BRNE's operand: `PC`, the sign (plus for zero), `0x` and the magnitude (R80). -/
def offText (off : Byte) : Text :=
  if 0 ≤ off.toInt then "PC+0x".toList ++ hex2 off else "PC-0x".toList ++ hex2 (-off)

/-- `render(rec)`, one arm per form (R83). -/
def render (r : Record) : Text :=
  match r.form with
  | .nop => "NOP".toList
  | .clr => "CLR ".toList ++ regText r.rd
  | .ldi => "LDI ".toList ++ regText r.rd ++ ",".toList ++ immText r.k
  | .ldXinc => "LD ".toList ++ regText r.rd ++ ",X+".toList
  | .ldYinc => "LD ".toList ++ regText r.rd ++ ",Y+".toList
  | .ldXdec => "LD ".toList ++ regText r.rd ++ ",-X".toList
  | .cpi => "CPI ".toList ++ regText r.rd ++ ",".toList ++ immText r.k
  | .brne => "BRNE ".toList ++ offText r.off
  | .sbiw => "SBIW ".toList ++ regText r.rd ++ ",".toList ++ immText r.k
  | .cp => "CP ".toList ++ regText r.rd ++ ",".toList ++ regText r.rr
  | .mov => "MOV ".toList ++ regText r.rd ++ ",".toList ++ regText r.rr
  | .inc => "INC ".toList ++ regText r.rd
  | .dec => "DEC ".toList ++ regText r.rd
  | .unknown => "Unknown 0x".toList ++ hex4 r.raw

/-- The lines of a sequence of records, each terminated by the newline (R77, R82). -/
def renderLines (newline : Text) (rs : List Record) : Text :=
  rs.flatMap fun r => render r ++ newline

end Sys2Proof.Machine
end

