-- ==== Sys2Proof/Machine/Stream.lean ====
section
/-! DEFINITION. The block at function level: the program image as a byte sequence, its words, and the records,
error and text of a whole stream (spec/20_memory.md R19 to R24, spec/40_matcher_extractor.md R61). -/

namespace Sys2Proof.Machine

/-- `MemRead(addr, 2)`: the two bytes at `addr` assembled little-endian, defined only inside the image
(00_scope.md section 6, 20_memory.md R20). -/
def memReadWord (bytes : List Byte) (addr : Nat) : Option Word :=
  match bytes[addr]?, bytes[addr + 1]? with
  | some lo, some hi => some (lo.setWidth 16 ||| hi.setWidth 16 <<< 8)
  | _, _ => none

/-- The words of a byte sequence, pairs taken from the first byte on; an odd trailing byte is in no word
(20_memory.md R21, R22). -/
def words : List Byte → List Word
  | lo :: hi :: rest => wordOfBytes lo hi :: words rest
  | _ => []

/-- `decode_stream(bytes)` (40_matcher_extractor.md R61) with the parameters as an argument. -/
def decodeStream (c : Config) (bytes : List Byte) : List Record × StreamErr :=
  ((words bytes).map (decodeRecord c.catalog), streamErr c.truncPolicy bytes.length)

/-- `render_stream(bytes)` (40_matcher_extractor.md R61). -/
def renderStream (c : Config) (bytes : List Byte) : Text :=
  renderLines c.newline (decodeStream c bytes).1

end Sys2Proof.Machine
end

