-- ==== Sys2Proof/Safety.lean ====
section
/-! DEFINITION. The terms statements use: the spec's bit-field notation, what the coming cycle does, the duties of
the environment (spec/70_reset_and_hazards.md R104), the invariant of every step, and equality up to the unread
content of `lo`. -/

namespace Sys2Proof.Machine

/-- `w[hi:lo]` as an unsigned number, as spec/00_scope.md section 6 defines it. -/
def bits (w : Word) (hi lo : Nat) : Nat := w.toNat / 2 ^ lo % 2 ^ (hi - lo + 1)

/-- The coming cycle accepts a byte: `rst` is 0 and `in_valid` is 1 (20_memory.md R33). -/
def AcceptsByte (s : State) : Prop := (currentInput s).rst = false ∧ (currentInput s).inValid = true

/-- The coming cycle accepts the high byte of the word `w` (20_memory.md R32, R33). -/
def CompletesWord (s : State) (w : Word) : Prop :=
  s.phase = .high ∧ AcceptsByte s ∧ wordOfBytes s.lo (currentInput s).inByte = w

/-- The state as a cycle that accepts a high byte leaves it before the record is emitted: the input is used up and
`phase` is 0 (20_memory.md R33). -/
def wordTaken (s : State) : State := { s with phase := .low, pending := s.pending.tail }

/-- The output ports of a cycle without a record: all record outputs 0 (20_memory.md R32), the fault bit as `err`. -/
def noRecord (err : Bool) : PortOut := ⟨false, 0#4, 0#5, 0#5, 0#8, 0#8, 0#16, err⟩

/-- `s` after `r` was emitted with the code `code` on `out_form`: the ports of 40_matcher_extractor.md R51 hold it,
it is the last of the history, nothing else is changed. -/
def afterRecord (code : BitVec 4) (r : Record) (s : State) : State :=
  { s with
    out := ⟨true, code, r.rd, r.rr, r.k, r.off, r.raw, s.errTruncated⟩
    emitted := s.emitted ++ [r] }

/-- The number of words of a form (30_encoding.md R42). -/
def wordCount (f : Form) : Nat :=
  (List.range 65536).countP fun n => matchForm catalog (BitVec.ofNat 16 n) == f

/-- The number a text of hexadecimal digits stands for. -/
def hexValue (t : Text) : Nat := t.foldl (fun n c => 16 * n + "0123456789ABCDEF".toList.idxOf c) 0

/-! ### The environment -/

/-- The bytes a sequence of cycles presents, each with its `in_last`; idle cycles present none (20_memory.md
R33). -/
def presented (cs : List PortIn) : List (Byte × Bool) :=
  cs.filterMap fun c => if c.inValid then some (c.inByte, c.inLast) else none

/-- A stream with its last byte marked (20_memory.md section 8, `in_last`). -/
def markLast : List Byte → List (Byte × Bool)
  | [] => []
  | [b] => [(b, true)]
  | b :: rest => (b, false) :: markLast rest

/-- The cycles present one stream as 70_reset_and_hazards.md R104 asks: its bytes in order, each once, the last
one marked, with idle cycles anywhere and no reset. -/
def PresentsStream (cs : List PortIn) (bytes : List Byte) : Prop :=
  (∀ c ∈ cs, c.rst = false) ∧ presented cs = markLast bytes

/-! ### The invariant -/

/-- The record outputs of a cycle without a record are 0 (20_memory.md R32), and those of a cycle with one are the
ports of the record emitted last. -/
def OutMatchesHistory (s : State) : Prop :=
  if s.out.outValid then
    ∃ r, s.emitted.getLast? = some r ∧ s.out = portsOfRecord r s.out.errTruncated
  else s.out = portsQuiet s.out.errTruncated

/-- What every step keeps: each record ever emitted is the record of its own raw word under the catalog (R49, R51),
and the outputs are canonical (R32). -/
def State.Inv (s : State) : Prop :=
  (∀ r ∈ s.emitted, r = decodeRecord catalog r.raw) ∧ OutMatchesHistory s

/-! ### What may differ unseen -/

/-- The states differ at most in the content of `lo`, and not in it while a low byte is held (10_state.md R13,
R17). -/
def SameButUnreadLo (s t : State) : Prop :=
  t = { s with lo := t.lo } ∧ (s.phase = .high → t.lo = s.lo)

end Sys2Proof.Machine
end

