-- ==== Sys2Proof/Certificates/Slice0/Obligations.lean ====
section
/-! DEFINITION. The statements for the provers. Each formalises what a rule of spec/ says the block does; the entry
of OBLIGATIONS.json names the rule. -/

open Sys2Proof Sys2Proof.Machine

/-! ### Encoding and decoding -/

/-- Decoding gives back every well-formed instruction, with every operand (30_encoding.md R36, R38). -/
def Obligations.DecodeOfEncodeIsIdentity : Prop :=
  ∀ i : Instr, i.wf = true → decode (encode i) = i

/-- Every word decodes to a well-formed instruction, and encoding that gives back the word: no bit is dropped, CLR's
ignored bits included (40_matcher_extractor.md R51, R59). -/
def Obligations.EncodeOfDecodeIsIdentity : Prop :=
  ∀ w : Word, (decode w).wf = true ∧ encode (decode w) = w

/-- Words written out from the spec's bit strings (30_encoding.md R36) decode to what they stand for, one of every
format. -/
def Obligations.WrittenWordsDecode : Prop :=
  decode 0b0000000000000000#16 = .nop ∧
  decode 0b0010010100011111#16 = .clr 17#5 0b01111#5 ∧
  decode 0b1110000010100000#16 = .ldi 26#5 0x00#8 ∧
  decode 0b0011101001011010#16 = .cpi 21#5 0xAA#8 ∧
  decode 0b1001011110010001#16 = .sbiw 26#5 0x21#8 ∧
  decode 0b1001000100001101#16 = .ldXinc 16#5 ∧
  decode 0b1001000111111001#16 = .ldYinc 31#5 ∧
  decode 0b1001000100011110#16 = .ldXdec 17#5 ∧
  decode 0b1001010111110011#16 = .inc 31#5 ∧
  decode 0b1001010100011010#16 = .dec 17#5 ∧
  decode 0b0010111100001010#16 = .mov 16#5 26#5 ∧
  decode 0b0001011100000001#16 = .cp 16#5 17#5 ∧
  decode 0b1111011111101001#16 = .brne (BitVec.ofInt 8 (-2)) ∧
  decode 0b1111111111111111#16 = .unknown 0xFFFF#16

/-! ### The Instruction Matcher -/

/-- The scan of the catalog is the chain of tests that R48 writes out. -/
def Obligations.MatchIsTheWrittenChain : Prop :=
  ∀ w : Word, matchForm catalog w =
    if w = 0x0000#16 then .nop
    else if w &&& 0xFC00#16 = 0x2400#16 then .clr
    else if w &&& 0xF000#16 = 0xE000#16 then .ldi
    else if w &&& 0xF000#16 = 0x3000#16 then .cpi
    else if w &&& 0xFF00#16 = 0x9700#16 then .sbiw
    else if w &&& 0xFE0F#16 = 0x900D#16 then .ldXinc
    else if w &&& 0xFE0F#16 = 0x9009#16 then .ldYinc
    else if w &&& 0xFE0F#16 = 0x900E#16 then .ldXdec
    else if w &&& 0xFE0F#16 = 0x9403#16 then .inc
    else if w &&& 0xFE0F#16 = 0x940A#16 then .dec
    else if w &&& 0xFC00#16 = 0x2C00#16 then .mov
    else if w &&& 0xFC00#16 = 0x1400#16 then .cp
    else if w &&& 0xFC07#16 = 0xF401#16 then .brne
    else .unknown

/-- No word matches two entries, and any order of the thirteen entries gives the same function (R41). -/
def Obligations.EntriesExclusiveInAnyOrder : Prop :=
  (∀ w : Word, (catalog.filter fun e => w &&& e.mask == e.pattern).length ≤ 1) ∧
  (∀ cat : List CatalogEntry, cat.Perm catalog → ∀ w : Word,
    matchForm cat w = matchForm catalog w ∧ decodeRecord cat w = decodeRecord catalog w)

/-- The number of words of each form (R42). -/
def Obligations.WordsPerForm : Prop :=
  wordCount .nop = 1 ∧ wordCount .clr = 1024 ∧ wordCount .ldi = 4096 ∧ wordCount .cpi = 4096 ∧
  wordCount .sbiw = 256 ∧ wordCount .ldXinc = 32 ∧ wordCount .ldYinc = 32 ∧ wordCount .ldXdec = 32 ∧
  wordCount .inc = 32 ∧ wordCount .dec = 32 ∧ wordCount .mov = 1024 ∧ wordCount .cp = 1024 ∧
  wordCount .brne = 128 ∧ wordCount .unknown = 53727

/-- Pattern bits outside the mask do not matter, in any entry of any catalog (R46): exchanging an entry's pattern for
one that agrees with it under the mask changes no match and no record. -/
def Obligations.PatternBitsOutsideMaskIrrelevant : Prop :=
  ∀ (before after : List CatalogEntry) (e : CatalogEntry) (p : Word),
    p &&& e.mask = e.pattern &&& e.mask → ∀ w : Word,
      matchForm (before ++ { e with pattern := p } :: after) w = matchForm (before ++ e :: after) w ∧
      decodeRecord (before ++ { e with pattern := p } :: after) w =
        decodeRecord (before ++ e :: after) w

/-! ### The Field Extractor and the record -/

/-- The operand primitives are the mask and shift expressions of R52 to R57. -/
def Obligations.PrimitivesAreMasksAndShifts : Prop :=
  ∀ w : Word,
    (regD5 w).setWidth 16 = (w >>> 4) &&& 0x1F#16 ∧
    (regR5 w).setWidth 16 = ((w >>> 5) &&& 0x10#16) ||| (w &&& 0x0F#16) ∧
    (regHi w).setWidth 16 = ((w >>> 4) &&& 0x0F#16) + 16#16 ∧
    (regHi w).setWidth 16 = ((w >>> 4) &&& 0x0F#16) ||| 0x10#16 ∧
    (regPair w).setWidth 16 = (((w >>> 4) &&& 0x03#16) <<< 1) + 24#16 ∧
    (imm8 w).setWidth 16 = ((w >>> 4) &&& 0xF0#16) ||| (w &&& 0x0F#16) ∧
    (imm6 w).setWidth 16 = ((w >>> 2) &&& 0x30#16) ||| (w &&& 0x0F#16)

/-- The branch offset is the source's procedure step by step, lies in -63 to 64, and has the corner values of R58's
table. -/
def Obligations.BranchOffsetBySteps : Prop :=
  (∀ w : Word,
    let k := w.extractLsb' 3 7
    let t : Byte := k.setWidth 8 <<< 1
    let s : Byte := t.sshiftRight 1
    s.toInt = (if k.getLsbD 6 then (k.toNat : Int) - 128 else (k.toNat : Int)) ∧
    rel7 w = s + 1#8 ∧
    (rel7 w).toInt = s.toInt + 1 ∧
    -63 ≤ (rel7 w).toInt ∧ (rel7 w).toInt ≤ 64) ∧
  (∀ w : Word,
    (bits w 9 3 = 0x00 → rel7 w = 0x01#8) ∧ (bits w 9 3 = 0x0A → rel7 w = 0x0B#8) ∧
    (bits w 9 3 = 0x3F → rel7 w = 0x40#8) ∧ (bits w 9 3 = 0x40 → rel7 w = 0xC1#8) ∧
    (bits w 9 3 = 0x7D → rel7 w = 0xFE#8) ∧ (bits w 9 3 = 0x7E → rel7 w = 0xFF#8) ∧
    (bits w 9 3 = 0x7F → rel7 w = 0x00#8))

/-- None of the arithmetic overflows or wraps (R62): each primitive is the sum over the integers of its parts. -/
def Obligations.OperandArithmeticNeverWraps : Prop :=
  ∀ w : Word,
    (regD5 w).toNat = bits w 8 4 ∧
    (regR5 w).toNat = 16 * bits w 9 9 + bits w 3 0 ∧
    (regHi w).toNat = 16 + bits w 7 4 ∧
    (regPair w).toNat = 24 + 2 * bits w 5 4 ∧
    (imm8 w).toNat = 16 * bits w 11 8 + bits w 3 0 ∧
    (imm6 w).toNat = 16 * bits w 7 6 + bits w 3 0 ∧
    (rel7 w).toInt = (if bits w 9 9 = 1 then (bits w 9 3 : Int) - 128 else (bits w 9 3 : Int)) + 1 ∧
    ((rel7 w).toInt < 0 → ((-(rel7 w)).toNat : Int) = -(rel7 w).toInt)

/-- The dispatcher of R49 and the record of R51: each form's record holds its operands, every other field is 0, `raw`
is the word, and a record determines its word. -/
def Obligations.RecordOfEveryForm : Prop :=
  (∀ w : Word, decodeRecord catalog w =
    match matchForm catalog w with
    | .nop => ⟨.nop, 0#5, 0#5, 0#8, 0#8, w⟩
    | .clr => ⟨.clr, regD5 w, 0#5, 0#8, 0#8, w⟩
    | .ldi => ⟨.ldi, regHi w, 0#5, imm8 w, 0#8, w⟩
    | .cpi => ⟨.cpi, regHi w, 0#5, imm8 w, 0#8, w⟩
    | .sbiw => ⟨.sbiw, regPair w, 0#5, imm6 w, 0#8, w⟩
    | .ldXinc => ⟨.ldXinc, regD5 w, 0#5, 0#8, 0#8, w⟩
    | .ldYinc => ⟨.ldYinc, regD5 w, 0#5, 0#8, 0#8, w⟩
    | .ldXdec => ⟨.ldXdec, regD5 w, 0#5, 0#8, 0#8, w⟩
    | .inc => ⟨.inc, regD5 w, 0#5, 0#8, 0#8, w⟩
    | .dec => ⟨.dec, regD5 w, 0#5, 0#8, 0#8, w⟩
    | .mov => ⟨.mov, regD5 w, regR5 w, 0#8, 0#8, w⟩
    | .cp => ⟨.cp, regD5 w, regR5 w, 0#8, 0#8, w⟩
    | .brne => ⟨.brne, 0#5, 0#5, 0#8, rel7 w, w⟩
    | .unknown => ⟨.unknown, 0#5, 0#5, 0#8, 0#8, w⟩) ∧
  (∀ v w : Word, decodeRecord catalog v = decodeRecord catalog w → v = w)

/-- The codes on `out_form` (R50): UNKNOWN is 0, every entry its priority number, a step that completes a word shows
the code of its form, and no step, of whatever kind, shows 14 or 15. -/
def Obligations.FormCodesOnThePort : Prop :=
  formCode .unknown = 0#4 ∧
  (∀ e ∈ catalog, (formCode e.form).toNat = e.prio) ∧
  (∀ f g : Form, formCode f = formCode g → f = g) ∧
  (∀ (s t : State) (w : Word), CompletesWord s w → step s = .next t →
    t.out.outForm = formCode (matchForm catalog w)) ∧
  (∀ s t : State, step s = .next t → t.out.outForm ≠ 14#4 ∧ t.out.outForm ≠ 15#4)

/-! ### The meanings complete -/

/-- NOP emits the record without operands; nothing else changes. -/
def Obligations.NopCompletes : Prop :=
  ∀ s : State, exec .nop s = .next (afterRecord 1#4 ⟨.nop, 0#5, 0#5, 0#8, 0#8, 0x0000#16⟩ s)

/-- CLR emits Rd; the ignored bits stand in `raw` at `w[9]` and `w[3:0]`; nothing else changes. -/
def Obligations.ClrCompletes : Prop :=
  ∀ (s : State) (rd : RegIndex) (x : BitVec 5),
    exec (.clr rd x) s = .next (afterRecord 2#4
      ⟨.clr, rd, 0#5, 0#8, 0#8,
        BitVec.ofNat 16 (0x2400 + x.toNat / 16 * 512 + rd.toNat * 16 + x.toNat % 16)⟩ s)

/-- LDI, CPI and SBIW emit Rd and K for every operand their encodings hold; nothing else changes. -/
def Obligations.ImmediateFormsComplete : Prop :=
  ∀ (s : State) (rd : RegIndex) (k : Byte),
    (16 ≤ rd.toNat →
      exec (.ldi rd k) s = .next (afterRecord 3#4
        ⟨.ldi, rd, 0#5, k, 0#8,
          BitVec.ofNat 16 (0xE000 + k.toNat / 16 * 256 + (rd.toNat - 16) * 16 + k.toNat % 16)⟩ s) ∧
      exec (.cpi rd k) s = .next (afterRecord 4#4
        ⟨.cpi, rd, 0#5, k, 0#8,
          BitVec.ofNat 16 (0x3000 + k.toNat / 16 * 256 + (rd.toNat - 16) * 16 + k.toNat % 16)⟩ s)) ∧
    (rd.toNat ∈ [24, 26, 28, 30] → k.toNat ≤ 63 →
      exec (.sbiw rd k) s = .next (afterRecord 5#4
        ⟨.sbiw, rd, 0#5, k, 0#8,
          BitVec.ofNat 16 (0x9700 + k.toNat / 16 * 64 + (rd.toNat - 24) / 2 * 16 + k.toNat % 16)⟩ s))

/-- The five class 5 forms emit Rd; nothing else changes: no register, no pointer, no memory. -/
def Obligations.IndirectAndUnaryFormsComplete : Prop :=
  ∀ (s : State) (rd : RegIndex),
    exec (.ldXinc rd) s = .next (afterRecord 6#4
      ⟨.ldXinc, rd, 0#5, 0#8, 0#8, BitVec.ofNat 16 (0x900D + rd.toNat * 16)⟩ s) ∧
    exec (.ldYinc rd) s = .next (afterRecord 7#4
      ⟨.ldYinc, rd, 0#5, 0#8, 0#8, BitVec.ofNat 16 (0x9009 + rd.toNat * 16)⟩ s) ∧
    exec (.ldXdec rd) s = .next (afterRecord 8#4
      ⟨.ldXdec, rd, 0#5, 0#8, 0#8, BitVec.ofNat 16 (0x900E + rd.toNat * 16)⟩ s) ∧
    exec (.inc rd) s = .next (afterRecord 9#4
      ⟨.inc, rd, 0#5, 0#8, 0#8, BitVec.ofNat 16 (0x9403 + rd.toNat * 16)⟩ s) ∧
    exec (.dec rd) s = .next (afterRecord 10#4
      ⟨.dec, rd, 0#5, 0#8, 0#8, BitVec.ofNat 16 (0x940A + rd.toNat * 16)⟩ s)

/-- MOV and CP emit Rd and Rr, the high bit of Rr at `w[9]`; nothing else changes. -/
def Obligations.TwoRegisterFormsComplete : Prop :=
  ∀ (s : State) (rd rr : RegIndex),
    exec (.mov rd rr) s = .next (afterRecord 11#4
      ⟨.mov, rd, rr, 0#8, 0#8,
        BitVec.ofNat 16 (0x2C00 + rr.toNat / 16 * 512 + rd.toNat * 16 + rr.toNat % 16)⟩ s) ∧
    exec (.cp rd rr) s = .next (afterRecord 12#4
      ⟨.cp, rd, rr, 0#8, 0#8,
        BitVec.ofNat 16 (0x1400 + rr.toNat / 16 * 512 + rd.toNat * 16 + rr.toNat % 16)⟩ s)

/-- BRNE emits its offset for every offset from -63 to 64; nothing else changes: no branch is taken. -/
def Obligations.BrneCompletes : Prop :=
  ∀ (s : State) (off : Byte), -63 ≤ off.toInt → off.toInt ≤ 64 →
    exec (.brne off) s = .next (afterRecord 13#4
      ⟨.brne, 0#5, 0#5, 0#8, off,
        BitVec.ofNat 16 (0xF401 + ((off.toInt - 1) % 128).toNat * 8)⟩ s)

/-- An unrecognized word is an ordinary record: UNKNOWN completes for every word and nothing else changes. For a word
that no entry matches this is R76's; for a word that an entry matches, which `decode` never makes an UNKNOWN of, it is
the model's choice (log entry 7). -/
def Obligations.UnknownCompletes : Prop :=
  ∀ (s : State) (raw : Word),
    exec (.unknown raw) s = .next (afterRecord 0#4 ⟨.unknown, 0#5, 0#5, 0#8, 0#8, raw⟩ s)

/-! ### The forms, word by word: encoding, record, text, corner cases -/

/-- NOP (R63). -/
def Obligations.NopWord : Prop :=
  (∀ w : Word, matchForm catalog w = .nop ↔ w = 0x0000#16) ∧
  (∀ s : State, CompletesWord s 0x0000#16 →
    step s = .next (afterRecord 1#4 ⟨.nop, 0#5, 0#5, 0#8, 0#8, 0x0000#16⟩ (wordTaken s))) ∧
  render (decodeRecord catalog 0x0000#16) = "NOP".toList ∧
  matchForm catalog 0x0001#16 = .unknown ∧ matchForm catalog 0x0100#16 = .unknown ∧
  matchForm catalog 0x8000#16 = .unknown

/-- CLR Rd (R64): every word with `w[15:10] = 001001`; `w[9]` and `w[3:0]` show in `raw` only, so each Rd is produced
by the 32 words that differ in them. -/
def Obligations.ClrWord : Prop :=
  (∀ w : Word, matchForm catalog w = .clr ↔ w &&& 0xFC00#16 = 0x2400#16) ∧
  (∀ (s : State) (w : Word), CompletesWord s w → w &&& 0xFC00#16 = 0x2400#16 →
    step s = .next (afterRecord 2#4
      ⟨.clr, BitVec.ofNat 5 (bits w 8 4), 0#5, 0#8, 0#8, w⟩ (wordTaken s)) ∧
    render (decodeRecord catalog w) = "CLR R".toList ++ dec (bits w 8 4)) ∧
  (∀ (rd : RegIndex) (x : BitVec 5), ∃! w : Word,
    matchForm catalog w = .clr ∧ regD5 w = rd ∧ bits w 9 9 * 16 + bits w 3 0 = x.toNat) ∧
  matchForm catalog 0x23FF#16 = .unknown ∧ matchForm catalog 0x2800#16 = .unknown ∧
  matchForm catalog 0x2C00#16 = .mov ∧
  render (decodeRecord catalog 0x2400#16) = "CLR R0".toList ∧
  render (decodeRecord catalog 0x260F#16) = "CLR R0".toList ∧
  render (decodeRecord catalog 0x2510#16) = "CLR R17".toList ∧
  render (decodeRecord catalog 0x25F0#16) = "CLR R31".toList

/-- LDI Rd,K (R65). -/
def Obligations.LdiWord : Prop :=
  (∀ w : Word, matchForm catalog w = .ldi ↔ w &&& 0xF000#16 = 0xE000#16) ∧
  (∀ (s : State) (w : Word), CompletesWord s w → w &&& 0xF000#16 = 0xE000#16 →
    step s = .next (afterRecord 3#4
      ⟨.ldi, BitVec.ofNat 5 (16 + bits w 7 4), 0#5, BitVec.ofNat 8 (bits w 11 8 * 16 + bits w 3 0), 0#8, w⟩
      (wordTaken s)) ∧
    render (decodeRecord catalog w) = "LDI R".toList ++ dec (16 + bits w 7 4) ++ ",0x".toList ++
      hex2 (BitVec.ofNat 8 (bits w 11 8 * 16 + bits w 3 0))) ∧
  (∀ (rd : RegIndex) (k : Byte), 16 ≤ rd.toNat → ∃! w : Word,
    matchForm catalog w = .ldi ∧ regHi w = rd ∧ imm8 w = k) ∧
  matchForm catalog 0xDFFF#16 = .unknown ∧ matchForm catalog 0xF000#16 = .unknown ∧
  render (decodeRecord catalog 0xE0A0#16) = "LDI R26,0x00".toList ∧
  render (decodeRecord catalog 0xEFFF#16) = "LDI R31,0xFF".toList ∧
  render (decodeRecord catalog 0xE10F#16) = "LDI R16,0x1F".toList ∧
  render (decodeRecord catalog 0xEF00#16) = "LDI R16,0xF0".toList ∧
  render (decodeRecord catalog 0xE0B2#16) = "LDI R27,0x02".toList

/-- CPI Rd,K (R66): the layout of LDI under another top nibble, which `w ^ 0xD000` exchanges. -/
def Obligations.CpiWord : Prop :=
  (∀ w : Word, matchForm catalog w = .cpi ↔ w &&& 0xF000#16 = 0x3000#16) ∧
  (∀ (s : State) (w : Word), CompletesWord s w → w &&& 0xF000#16 = 0x3000#16 →
    step s = .next (afterRecord 4#4
      ⟨.cpi, BitVec.ofNat 5 (16 + bits w 7 4), 0#5, BitVec.ofNat 8 (bits w 11 8 * 16 + bits w 3 0), 0#8, w⟩
      (wordTaken s)) ∧
    render (decodeRecord catalog w) = "CPI R".toList ++ dec (16 + bits w 7 4) ++ ",0x".toList ++
      hex2 (BitVec.ofNat 8 (bits w 11 8 * 16 + bits w 3 0))) ∧
  (∀ (rd : RegIndex) (k : Byte), 16 ≤ rd.toNat → ∃! w : Word,
    matchForm catalog w = .cpi ∧ regHi w = rd ∧ imm8 w = k) ∧
  (∀ w : Word, matchForm catalog w = .ldi →
    decodeRecord catalog (w ^^^ 0xD000#16) =
      { decodeRecord catalog w with form := .cpi, raw := w ^^^ 0xD000#16 }) ∧
  matchForm catalog 0x2FFF#16 = .mov ∧ matchForm catalog 0x4000#16 = .unknown ∧
  render (decodeRecord catalog 0x3FFF#16) = "CPI R31,0xFF".toList ∧
  render (decodeRecord catalog 0x3000#16) = "CPI R16,0x00".toList ∧
  render (decodeRecord catalog 0x3A5A#16) = "CPI R21,0xAA".toList

/-- SBIW Rd,K (R67): the four pairs and the 6-bit literal. -/
def Obligations.SbiwWord : Prop :=
  (∀ w : Word, matchForm catalog w = .sbiw ↔ w &&& 0xFF00#16 = 0x9700#16) ∧
  (∀ (s : State) (w : Word), CompletesWord s w → w &&& 0xFF00#16 = 0x9700#16 →
    step s = .next (afterRecord 5#4
      ⟨.sbiw, BitVec.ofNat 5 (24 + 2 * bits w 5 4), 0#5, BitVec.ofNat 8 (bits w 7 6 * 16 + bits w 3 0), 0#8, w⟩
      (wordTaken s)) ∧
    render (decodeRecord catalog w) = "SBIW R".toList ++ dec (24 + 2 * bits w 5 4) ++ ",0x".toList ++
      hex2 (BitVec.ofNat 8 (bits w 7 6 * 16 + bits w 3 0))) ∧
  (∀ (sel k : Nat), sel < 4 → k < 64 → ∃! w : Word,
    matchForm catalog w = .sbiw ∧ (regPair w).toNat = 24 + 2 * sel ∧ (imm6 w).toNat = k) ∧
  matchForm catalog 0x96FF#16 = .unknown ∧ matchForm catalog 0x9611#16 = .unknown ∧
  matchForm catalog 0x9800#16 = .unknown ∧
  render (decodeRecord catalog 0x9740#16) = "SBIW R24,0x10".toList ∧
  render (decodeRecord catalog 0x9780#16) = "SBIW R24,0x20".toList ∧
  render (decodeRecord catalog 0x97C0#16) = "SBIW R24,0x30".toList ∧
  render (decodeRecord catalog 0x9711#16) = "SBIW R26,0x01".toList ∧
  render (decodeRecord catalog 0x97FF#16) = "SBIW R30,0x3F".toList

/-- LD Rd,X+ (R68). -/
def Obligations.LdXincWord : Prop :=
  (∀ w : Word, matchForm catalog w = .ldXinc ↔ w &&& 0xFE0F#16 = 0x900D#16) ∧
  (∀ (s : State) (w : Word), CompletesWord s w → w &&& 0xFE0F#16 = 0x900D#16 →
    step s = .next (afterRecord 6#4
      ⟨.ldXinc, BitVec.ofNat 5 (bits w 8 4), 0#5, 0#8, 0#8, w⟩ (wordTaken s)) ∧
    render (decodeRecord catalog w) = "LD R".toList ++ dec (bits w 8 4) ++ ",X+".toList) ∧
  (∀ rd : RegIndex, ∃! w : Word, matchForm catalog w = .ldXinc ∧ regD5 w = rd) ∧
  matchForm catalog 0x900C#16 = .unknown ∧ matchForm catalog 0x900F#16 = .unknown ∧
  matchForm catalog 0x920D#16 = .unknown ∧
  render (decodeRecord catalog 0x900D#16) = "LD R0,X+".toList ∧
  render (decodeRecord catalog 0x910D#16) = "LD R16,X+".toList ∧
  render (decodeRecord catalog 0x91AD#16) = "LD R26,X+".toList ∧
  render (decodeRecord catalog 0x91FD#16) = "LD R31,X+".toList

/-- LD Rd,Y+ (R69): it differs from LD Rd,X+ in `w[2]` only. -/
def Obligations.LdYincWord : Prop :=
  (∀ w : Word, matchForm catalog w = .ldYinc ↔ w &&& 0xFE0F#16 = 0x9009#16) ∧
  (∀ (s : State) (w : Word), CompletesWord s w → w &&& 0xFE0F#16 = 0x9009#16 →
    step s = .next (afterRecord 7#4
      ⟨.ldYinc, BitVec.ofNat 5 (bits w 8 4), 0#5, 0#8, 0#8, w⟩ (wordTaken s)) ∧
    render (decodeRecord catalog w) = "LD R".toList ++ dec (bits w 8 4) ++ ",Y+".toList) ∧
  (∀ rd : RegIndex, ∃! w : Word, matchForm catalog w = .ldYinc ∧ regD5 w = rd) ∧
  (∀ w : Word, matchForm catalog w = .ldYinc ↔ matchForm catalog (w ^^^ 0x0004#16) = .ldXinc) ∧
  matchForm catalog 0x900A#16 = .unknown ∧ matchForm catalog 0x9001#16 = .unknown ∧
  render (decodeRecord catalog 0x9009#16) = "LD R0,Y+".toList ∧
  render (decodeRecord catalog 0x9109#16) = "LD R16,Y+".toList ∧
  render (decodeRecord catalog 0x91F9#16) = "LD R31,Y+".toList

/-- LD Rd,-X (R70): it differs from LD Rd,X+ in `w[1:0]` only. -/
def Obligations.LdXdecWord : Prop :=
  (∀ w : Word, matchForm catalog w = .ldXdec ↔ w &&& 0xFE0F#16 = 0x900E#16) ∧
  (∀ (s : State) (w : Word), CompletesWord s w → w &&& 0xFE0F#16 = 0x900E#16 →
    step s = .next (afterRecord 8#4
      ⟨.ldXdec, BitVec.ofNat 5 (bits w 8 4), 0#5, 0#8, 0#8, w⟩ (wordTaken s)) ∧
    render (decodeRecord catalog w) = "LD R".toList ++ dec (bits w 8 4) ++ ",-X".toList) ∧
  (∀ rd : RegIndex, ∃! w : Word, matchForm catalog w = .ldXdec ∧ regD5 w = rd) ∧
  (∀ w : Word, matchForm catalog w = .ldXdec ↔ matchForm catalog (w ^^^ 0x0003#16) = .ldXinc) ∧
  render (decodeRecord catalog 0x900E#16) = "LD R0,-X".toList ∧
  render (decodeRecord catalog 0x911E#16) = "LD R17,-X".toList ∧
  render (decodeRecord catalog 0x91FE#16) = "LD R31,-X".toList

/-- INC Rd (R71). -/
def Obligations.IncWord : Prop :=
  (∀ w : Word, matchForm catalog w = .inc ↔ w &&& 0xFE0F#16 = 0x9403#16) ∧
  (∀ (s : State) (w : Word), CompletesWord s w → w &&& 0xFE0F#16 = 0x9403#16 →
    step s = .next (afterRecord 9#4
      ⟨.inc, BitVec.ofNat 5 (bits w 8 4), 0#5, 0#8, 0#8, w⟩ (wordTaken s)) ∧
    render (decodeRecord catalog w) = "INC R".toList ++ dec (bits w 8 4)) ∧
  (∀ rd : RegIndex, ∃! w : Word, matchForm catalog w = .inc ∧ regD5 w = rd) ∧
  matchForm catalog 0x9400#16 = .unknown ∧ matchForm catalog 0x9408#16 = .unknown ∧
  matchForm catalog 0x9508#16 = .unknown ∧ matchForm catalog 0x9603#16 = .unknown ∧
  matchForm catalog 0x9203#16 = .unknown ∧
  render (decodeRecord catalog 0x9403#16) = "INC R0".toList ∧
  render (decodeRecord catalog 0x9503#16) = "INC R16".toList ∧
  render (decodeRecord catalog 0x95F3#16) = "INC R31".toList

/-- DEC Rd (R72). -/
def Obligations.DecWord : Prop :=
  (∀ w : Word, matchForm catalog w = .dec ↔ w &&& 0xFE0F#16 = 0x940A#16) ∧
  (∀ (s : State) (w : Word), CompletesWord s w → w &&& 0xFE0F#16 = 0x940A#16 →
    step s = .next (afterRecord 10#4
      ⟨.dec, BitVec.ofNat 5 (bits w 8 4), 0#5, 0#8, 0#8, w⟩ (wordTaken s)) ∧
    render (decodeRecord catalog w) = "DEC R".toList ++ dec (bits w 8 4)) ∧
  (∀ rd : RegIndex, ∃! w : Word, matchForm catalog w = .dec ∧ regD5 w = rd) ∧
  matchForm catalog 0x940C#16 = .unknown ∧ matchForm catalog 0x940E#16 = .unknown ∧
  matchForm catalog 0x900A#16 = .unknown ∧
  render (decodeRecord catalog 0x940A#16) = "DEC R0".toList ∧
  render (decodeRecord catalog 0x950A#16) = "DEC R16".toList ∧
  render (decodeRecord catalog 0x951A#16) = "DEC R17".toList ∧
  render (decodeRecord catalog 0x95FA#16) = "DEC R31".toList

/-- MOV Rd,Rr (R73): one word for every pair, equal registers included. -/
def Obligations.MovWord : Prop :=
  (∀ w : Word, matchForm catalog w = .mov ↔ w &&& 0xFC00#16 = 0x2C00#16) ∧
  (∀ (s : State) (w : Word), CompletesWord s w → w &&& 0xFC00#16 = 0x2C00#16 →
    step s = .next (afterRecord 11#4
      ⟨.mov, BitVec.ofNat 5 (bits w 8 4), BitVec.ofNat 5 (bits w 9 9 * 16 + bits w 3 0), 0#8, 0#8, w⟩
      (wordTaken s)) ∧
    render (decodeRecord catalog w) =
      "MOV R".toList ++ dec (bits w 8 4) ++ ",R".toList ++ dec (bits w 9 9 * 16 + bits w 3 0)) ∧
  (∀ rd rr : RegIndex, ∃! w : Word, matchForm catalog w = .mov ∧ regD5 w = rd ∧ regR5 w = rr) ∧
  render (decodeRecord catalog 0x2E00#16) = "MOV R0,R16".toList ∧
  render (decodeRecord catalog 0x2C10#16) = "MOV R1,R0".toList ∧
  render (decodeRecord catalog 0x2C01#16) = "MOV R0,R1".toList ∧
  render (decodeRecord catalog 0x2C00#16) = "MOV R0,R0".toList ∧
  render (decodeRecord catalog 0x2FFF#16) = "MOV R31,R31".toList ∧
  render (decodeRecord catalog 0x2E0F#16) = "MOV R0,R31".toList ∧
  render (decodeRecord catalog 0x2DF0#16) = "MOV R31,R0".toList ∧
  render (decodeRecord catalog 0x2F0A#16) = "MOV R16,R26".toList ∧
  render (decodeRecord catalog 0x2F1C#16) = "MOV R17,R28".toList

/-- CP Rd,Rr (R74). -/
def Obligations.CpWord : Prop :=
  (∀ w : Word, matchForm catalog w = .cp ↔ w &&& 0xFC00#16 = 0x1400#16) ∧
  (∀ (s : State) (w : Word), CompletesWord s w → w &&& 0xFC00#16 = 0x1400#16 →
    step s = .next (afterRecord 12#4
      ⟨.cp, BitVec.ofNat 5 (bits w 8 4), BitVec.ofNat 5 (bits w 9 9 * 16 + bits w 3 0), 0#8, 0#8, w⟩
      (wordTaken s)) ∧
    render (decodeRecord catalog w) =
      "CP R".toList ++ dec (bits w 8 4) ++ ",R".toList ++ dec (bits w 9 9 * 16 + bits w 3 0)) ∧
  (∀ rd rr : RegIndex, ∃! w : Word, matchForm catalog w = .cp ∧ regD5 w = rd ∧ regR5 w = rr) ∧
  matchForm catalog 0x1000#16 = .unknown ∧ matchForm catalog 0x1800#16 = .unknown ∧
  matchForm catalog 0x13FF#16 = .unknown ∧ matchForm catalog 0x0400#16 = .unknown ∧
  matchForm catalog 0x0000#16 = .nop ∧
  render (decodeRecord catalog 0x1701#16) = "CP R16,R17".toList ∧
  render (decodeRecord catalog 0x160F#16) = "CP R0,R31".toList

/-- BRNE (R75): the offset is the sign-extended field plus one; zero has the plus sign; one word for every offset from
-63 to 64. -/
def Obligations.BrneWord : Prop :=
  (∀ w : Word, matchForm catalog w = .brne ↔ w &&& 0xFC07#16 = 0xF401#16) ∧
  (∀ (s : State) (w : Word), CompletesWord s w → w &&& 0xFC07#16 = 0xF401#16 →
    let off : Int := (if bits w 9 9 = 1 then (bits w 9 3 : Int) - 128 else (bits w 9 3 : Int)) + 1
    step s = .next (afterRecord 13#4 ⟨.brne, 0#5, 0#5, 0#8, BitVec.ofInt 8 off, w⟩ (wordTaken s)) ∧
    (0 ≤ off → render (decodeRecord catalog w) = "BRNE PC+0x".toList ++ hex2 (BitVec.ofNat 8 off.toNat)) ∧
    (off < 0 →
      render (decodeRecord catalog w) = "BRNE PC-0x".toList ++ hex2 (BitVec.ofNat 8 (-off).toNat))) ∧
  (∀ off : Int, -63 ≤ off → off ≤ 64 → ∃! w : Word,
    matchForm catalog w = .brne ∧ (rel7 w).toInt = off) ∧
  render (decodeRecord catalog 0xF401#16) = "BRNE PC+0x01".toList ∧
  render (decodeRecord catalog 0xF409#16) = "BRNE PC+0x02".toList ∧
  render (decodeRecord catalog 0xF451#16) = "BRNE PC+0x0B".toList ∧
  render (decodeRecord catalog 0xF5F9#16) = "BRNE PC+0x40".toList ∧
  render (decodeRecord catalog 0xF601#16) = "BRNE PC-0x3F".toList ∧
  render (decodeRecord catalog 0xF7E9#16) = "BRNE PC-0x02".toList ∧
  render (decodeRecord catalog 0xF7F1#16) = "BRNE PC-0x01".toList ∧
  render (decodeRecord catalog 0xF7F9#16) = "BRNE PC+0x00".toList ∧
  matchForm catalog 0xF400#16 = .unknown ∧ matchForm catalog 0xF402#16 = .unknown ∧
  matchForm catalog 0xF7FF#16 = .unknown ∧ matchForm catalog 0xF7F8#16 = .unknown ∧
  matchForm catalog 0xF001#16 = .unknown ∧ matchForm catalog 0xF801#16 = .unknown

/-- The unrecognized word (R76): an ordinary record; the fault bit and the rest of the state are as for any word; 53727
words are unrecognized. -/
def Obligations.UnknownWord : Prop :=
  (∀ w : Word, matchForm catalog w = .unknown ↔
    w ≠ 0x0000#16 ∧
    w &&& 0xFC00#16 ∉ [0x2400#16, 0x2C00#16, 0x1400#16] ∧
    w &&& 0xF000#16 ∉ [0xE000#16, 0x3000#16] ∧
    w &&& 0xFF00#16 ≠ 0x9700#16 ∧
    w &&& 0xFE0F#16 ∉ [0x900D#16, 0x9009#16, 0x900E#16, 0x9403#16, 0x940A#16] ∧
    w &&& 0xFC07#16 ≠ 0xF401#16) ∧
  (∀ (s : State) (w : Word), CompletesWord s w → matchForm catalog w = .unknown →
    step s = .next (afterRecord 0#4 ⟨.unknown, 0#5, 0#5, 0#8, 0#8, w⟩ (wordTaken s)) ∧
    render (decodeRecord catalog w) = "Unknown 0x".toList ++ hex4 w) ∧
  wordCount .unknown = 53727 ∧
  render (decodeRecord catalog 0x0001#16) = "Unknown 0x0001".toList ∧
  render (decodeRecord catalog 0xFFFF#16) = "Unknown 0xFFFF".toList ∧
  matchForm catalog 0x9508#16 = .unknown ∧ matchForm catalog 0x0C00#16 = .unknown ∧
  matchForm catalog 0xCFFF#16 = .unknown

/-! ### The Word Assembler step -/

/-- The step runs the decoded instruction: when the coming cycle completes the word of a well-formed instruction, the
step is its meaning in the state whose input is used up and whose `phase` is 0; and a word placed for the host is the
word the very next step runs. -/
def Obligations.StepRunsTheDecodedInstruction : Prop :=
  (∀ (s : State) (i : Instr), i.wf = true → CompletesWord s (encode i) → step s = exec i (wordTaken s)) ∧
  (∀ (s : State) (w : Word), CompletesWord (s.withFetchWord 16 w.toNat) w ∧
    decodeTableWord 16 w.toNat = some (decode w) ∧
    step (s.withFetchWord 16 w.toNat) =
      exec (decode w) { s with phase := .low, lo := w.extractLsb' 0 8 })

/-- The step of R33, all its cases: nothing accepted, a low byte held, the partnerless last byte, the completed word. -/
def Obligations.WordAssemblerStep : Prop :=
  ∀ s : State, (currentInput s).rst = false →
    ((currentInput s).inValid = false →
      step s = .next { s with pending := s.pending.tail, out := noRecord s.errTruncated }) ∧
    ((currentInput s).inValid = true → s.phase = .low → (currentInput s).inLast = false →
      step s = .next { s with
        pending := s.pending.tail, out := noRecord s.errTruncated,
        lo := (currentInput s).inByte, phase := .high }) ∧
    ((currentInput s).inValid = true → s.phase = .low → (currentInput s).inLast = true →
      step s = .next { s with
        pending := s.pending.tail, out := noRecord s.errTruncated, errTruncated := true }) ∧
    ((currentInput s).inValid = true → s.phase = .high → ∀ w : Word,
      w = s.lo.setWidth 16 ||| ((currentInput s).inByte.setWidth 16 <<< 8) →
      step s = .next (afterRecord (formCode (matchForm catalog w)) (decodeRecord catalog w) (wordTaken s)))

/-- `emit` (R32): a record is presented exactly in the cycle that accepts a high byte, it is `decode({in_byte, lo})`, and
in every other cycle all record outputs are 0 and nothing is emitted. -/
def Obligations.RecordPresentedExactlyWithHighByte : Prop :=
  ∀ s t : State, step s = .next t →
    (t.out.outValid = true ↔ s.phase = .high ∧ AcceptsByte s) ∧
    (t.out.outValid = false → t.out = noRecord s.errTruncated ∧ t.emitted = s.emitted) ∧
    (t.out.outValid = true →
      let r := decodeRecord catalog ((currentInput s).inByte ++ s.lo)
      t.out = ⟨true, formCode r.form, r.rd, r.rr, r.k, r.off, r.raw, s.errTruncated⟩ ∧
      t.emitted = s.emitted ++ [r])

/-- Two cycles that complete the same word emit the same record, whatever else the two states hold (R15, R60). -/
def Obligations.RecordDependsOnTheWordAlone : Prop :=
  ∀ (s s' : State) (w : Word), CompletesWord s w → CompletesWord s' w →
    ∃ (r : Record) (t t' : State), step s = .next t ∧ step s' = .next t' ∧
      t.emitted = s.emitted ++ [r] ∧ t'.emitted = s'.emitted ++ [r] ∧ r.raw = w

/-- Nothing stops the block (R59, R86, R89): no word does, and no run of any length does. -/
def Obligations.NothingStopsTheBlock : Prop :=
  (∀ (s : State) (w : Word), CompletesWord s w → ∃ t, step s = .next t ∧ t.emitted.length = s.emitted.length + 1) ∧
  (∀ (n : Nat) (s : State), ∃ t, Sys2Proof.core.run n s = .next t)

/-! ### The fault bit and reset -/

/-- Right after reset (R17): `phase` is 0, no error is recorded, no record is presented. The value of `lo` is the model's
(log entry 1) and is not stated. -/
def Obligations.StateAfterReset : Prop :=
  State.reset.phase = .low ∧ State.reset.errTruncated = false ∧ State.reset.out = noRecord false

/-- `raise TruncatedStream` (R87): its cause, its whole effect, and the error of a stream. -/
def Obligations.TruncatedStreamRaised : Prop :=
  (∀ s : State, AcceptsByte s → s.phase = .low → (currentInput s).inLast = true →
    step s = .next { s with
      errTruncated := true, pending := s.pending.tail, out := noRecord s.errTruncated }) ∧
  (∀ s t : State, step s = .next t → s.errTruncated = false → t.errTruncated = true →
    AcceptsByte s ∧ s.phase = .low ∧ (currentInput s).inLast = true) ∧
  (∀ bytes : List Byte,
    (decodeStream Config.hardware bytes).2 = .truncatedStream ↔ bytes.length % 2 = 1)

/-- The fault bit (R14): 0 after reset, set by TruncatedStream, cleared by no step but reset, shown on its output, and
without effect on anything else. -/
def Obligations.FaultBit : Prop :=
  State.reset.errTruncated = false ∧
  (∀ s t : State, step s = .next t →
    t.errTruncated =
      (!(currentInput s).rst &&
        (s.errTruncated || ((currentInput s).inValid && s.phase == .low && (currentInput s).inLast)))) ∧
  (∀ s t : State, step s = .next t → t.out.errTruncated = s.errTruncated) ∧
  (∀ (s t : State) (b : Bool), step s = .next t →
    ∃ t', step { s with errTruncated := b } = .next t' ∧
      t' = { t with errTruncated := t'.errTruncated, out := { t.out with errTruncated := b } })

/-- Sticky (R93): once set, the fault bit stays set through every run without a reset cycle; a further occurrence leaves it
set and the block ready at `phase` 0. -/
def Obligations.FaultBitIsSticky : Prop :=
  (∀ (n : Nat) (s t : State), (∀ c ∈ s.pending.take n, c.rst = false) → s.errTruncated = true →
    Sys2Proof.core.run n s = .next t → t.errTruncated = true) ∧
  (∀ s : State, s.errTruncated = true → s.phase = .low → AcceptsByte s → (currentInput s).inLast = true →
    ∃ t, step s = .next t ∧ t.errTruncated = true ∧ t.phase = .low)

/-- At most one condition a cycle (R91): a cycle that sets the fault bit emits nothing, a cycle that emits leaves the bit
alone, and a reset cycle raises nothing. -/
def Obligations.ConditionsNeverCoincide : Prop :=
  ∀ s t : State, step s = .next t →
    (s.errTruncated = false → t.errTruncated = true → t.emitted = s.emitted ∧ t.out.outValid = false) ∧
    (t.emitted ≠ s.emitted → t.errTruncated = s.errTruncated) ∧
    ((currentInput s).rst = true → t.errTruncated = false ∧ t.emitted = s.emitted)

/-- Reset (R99): whatever the other inputs are, `phase` and the fault bit become 0, no byte is accepted, nothing is emitted;
`lo` may hold anything (and the model's counter `resets`, of which nothing is said, may change); and nothing but reset
clears the fault bit. -/
def Obligations.ResetCycle : Prop :=
  (∀ s : State, (currentInput s).rst = true →
    ∃ (b : Byte) (n : Nat), step s = .next { s with
      phase := .low, lo := b, errTruncated := false, pending := s.pending.tail,
      out := noRecord s.errTruncated, resets := n }) ∧
  (∀ s t : State, step s = .next t → s.errTruncated = true → t.errTruncated = false →
    (currentInput s).rst = true)

/-- Reset in the middle of a word (R100): the held byte is gone without a record or an error, what was emitted stays, and
the next accepted byte is a low byte. -/
def Obligations.ResetDiscardsTheHeldByte : Prop :=
  ∀ s t : State, s.phase = .high → (currentInput s).rst = true → step s = .next t →
    t.phase = .low ∧ t.emitted = s.emitted ∧ t.errTruncated = false ∧
    (AcceptsByte t → (currentInput t).inLast = false →
      ∃ u, step t = .next u ∧ u.phase = .high ∧ u.lo = (currentInput t).inByte ∧ u.emitted = s.emitted)

/-- The source of bytes stops early (R94): with no coming cycle the block waits, its state unchanged, for any number of
cycles; a held byte stays held and nothing is raised. -/
def Obligations.BlockWaitsWithStateUnchanged : Prop :=
  ∀ (n : Nat) (s : State), s.pending = [] →
    Sys2Proof.core.run (n + 1) s = .next { s with out := noRecord s.errTruncated }

/-! ### Streams -/

/-- The words of a byte sequence (R20, R21): `floor(L/2)` of them, word `i` little-endian from the bytes `2i` and
`2i + 1`. -/
def Obligations.WordsAreLittleEndianPairs : Prop :=
  ∀ bytes : List Byte,
    (words bytes).length = bytes.length / 2 ∧
    (∀ i : Nat, (words bytes)[i]? = memReadWord bytes (2 * i)) ∧
    (∀ (i : Nat) (w : Word), (words bytes)[i]? = some w →
      bytes[2 * i]? = some (w.extractLsb' 0 8) ∧ bytes[2 * i + 1]? = some (w.extractLsb' 8 8))

/-- An odd length (R22): the last byte is dropped and TruncatedStream is raised; under `drop_silently` only the error
differs. -/
def Obligations.OddLengthDropsTheLastByte : Prop :=
  ∀ (bytes : List Byte) (b : Byte), bytes.length % 2 = 0 →
    decodeStream Config.hardware (bytes ++ [b]) =
      ((decodeStream Config.hardware bytes).1, .truncatedStream) ∧
    (decodeStream Config.hardware bytes).2 = .none ∧
    decodeStream { Config.hardware with truncPolicy := .dropSilently } (bytes ++ [b]) =
      ((decodeStream Config.hardware bytes).1, .none)

/-- Output order (R28): one record per word, in input order, record `i` from the bytes `2i` and `2i + 1` alone. -/
def Obligations.RecordsInInputOrder : Prop :=
  ∀ bytes : List Byte,
    (decodeStream Config.hardware bytes).1.length = bytes.length / 2 ∧
    (∀ i : Nat, (decodeStream Config.hardware bytes).1[i]? =
      (memReadWord bytes (2 * i)).map (decodeRecord catalog)) ∧
    (∀ (other : List Byte) (i : Nat), other[2 * i]? = bytes[2 * i]? →
      other[2 * i + 1]? = bytes[2 * i + 1]? →
      (decodeStream Config.hardware other).1[i]? = (decodeStream Config.hardware bytes).1[i]?)

/-- Independence of the words (R29, R103): a stream cut at an even index decodes piece by piece, for every catalog. -/
def Obligations.StreamsDecodePieceByPiece : Prop :=
  ∀ (c : Config) (a b : List Byte), a.length % 2 = 0 →
    (decodeStream c (a ++ b)).1 = (decodeStream c a).1 ++ (decodeStream c b).1 ∧
    (decodeStream c (a ++ b)).2 = (decodeStream c b).2

/-- The ports compute `decode_stream` (the agreement note of 20_memory.md section 8; R61, R102): from `phase` 0, the cycles
that present a stream, idle cycles anywhere, emit exactly its records in order, end at `phase` 0, and set the fault
bit exactly when its length is odd. -/
def Obligations.PortsComputeDecodeStream : Prop :=
  ∀ (s : State) (bytes : List Byte) (cs rest : List PortIn),
    s.phase = .low → s.pending = cs ++ rest → PresentsStream cs bytes →
    ∃ t, Sys2Proof.core.run cs.length s = .next t ∧
      t.phase = .low ∧ t.pending = rest ∧
      t.emitted = s.emitted ++ (decodeStream Config.hardware bytes).1 ∧
      (t.errTruncated = true ↔
        s.errTruncated = true ∨ (decodeStream Config.hardware bytes).2 = .truncatedStream)

/-- Bytes whose last one is never marked (R104, R94): whatever bytes are presented are paired from `phase` 0 on, across the
ends of streams; an odd one stays held and nothing is raised. -/
def Obligations.UnmarkedBytesArePairedAcrossStreams : Prop :=
  ∀ (s : State) (bytes : List Byte) (cs rest : List PortIn),
    s.phase = .low → s.pending = cs ++ rest → (∀ c ∈ cs, c.rst = false) →
    presented cs = bytes.map (fun b => (b, false)) →
    ∃ t, Sys2Proof.core.run cs.length s = .next t ∧ t.pending = rest ∧
      t.emitted = s.emitted ++ (words bytes).map (decodeRecord catalog) ∧
      t.errTruncated = s.errTruncated ∧
      (t.phase = .high ↔ bytes.length % 2 = 1) ∧
      (bytes.length % 2 = 1 → some t.lo = bytes.getLast?)

/-! ### Invariants and what cannot be seen -/

/-- The invariant holds right after reset. -/
def Obligations.InvariantAtReset : Prop := State.reset.Inv

/-- Every step keeps the invariant: each record ever emitted is the decoding of its own raw word (R49, R51), and the outputs
are 0 or those of the record emitted last (R32). -/
def Obligations.StepKeepsInvariant : Prop :=
  ∀ s t : State, s.Inv → step s = .next t → t.Inv

/-- The content of `lo` while no low byte is held is never seen (R13, R17, 93 U3): two machines that differ in it alone take
the same runs, outputs and records included, whatever value `lo` holds. -/
def Obligations.UnreadLoIsNeverSeen : Prop :=
  ∀ (n : Nat) (s s' t : State), SameButUnreadLo s s' → Sys2Proof.core.run n s = .next t →
    ∃ t', Sys2Proof.core.run n s' = .next t' ∧ SameButUnreadLo t t'

/-! ### The Renderer -/

/-- The digits (R78, R79, R81): a register index in decimal without padding, a byte in exactly two and a word in exactly
four upper-case hexadecimal digits that read back as the number. -/
def Obligations.DigitsReadBack : Prop :=
  (∀ r : RegIndex, regText r =
    'R' :: (if r.toNat < 10 then [Nat.digitChar r.toNat]
      else [Nat.digitChar (r.toNat / 10), Nat.digitChar (r.toNat % 10)])) ∧
  (∀ b : Byte, (hex2 b).length = 2 ∧ (∀ c ∈ hex2 b, c ∈ "0123456789ABCDEF".toList) ∧
    hexValue (hex2 b) = b.toNat) ∧
  (∀ w : Word, (hex4 w).length = 4 ∧ (∀ c ∈ hex4 w, c ∈ "0123456789ABCDEF".toList) ∧
    hexValue (hex4 w) = w.toNat)

/-- The characters of every line (R84): all of them of the rule's set and 7-bit; in the line of a recognized word the
only lower-case letter is the `x` of `0x`, and the mnemonic, the characters before the first space, is upper case; the
line of an unrecognized word begins with `Unknown`. The length is that of 95 V13. -/
def Obligations.LineCharacters : Prop :=
  ∀ w : Word,
    let line := render (decodeRecord catalog w)
    (∀ c ∈ line, c ∈ "ABCDEFGHIJKLMNOPQRSTUVWXYZnkowx0123456789 ,+-".toList ∧ c.toNat < 128) ∧
    (matchForm catalog w ≠ .unknown →
      (∀ c ∈ line, c ∉ "nkow".toList) ∧
      line.takeWhile (fun c => c != ' ') ≠ [] ∧
      (∀ c ∈ line.takeWhile (fun c => c != ' '), c ∈ "ABCDEFGHIJKLMNOPQRSTUVWXYZ".toList)) ∧
    (matchForm catalog w = .unknown → line.takeWhile (fun c => c != ' ') = "Unknown".toList) ∧
    3 ≤ line.length ∧ line.length ≤ 14

/-- The stream functions of R61, index by index, and the lines of R77 and R82: the records are the decodings of the words
at `2i` in order, the error is TruncatedStream exactly for an odd length, and the text is the concatenation, in input
order, of each record's line followed by one line feed. So it has one line feed per record and no carriage return, a
text that is not empty ends with a line feed, and the empty stream has the empty text. -/
def Obligations.OneLinePerRecord : Prop :=
  ∀ bytes : List Byte,
    let wordAt : Nat → Word := fun i => (memReadWord bytes (2 * i)).getD 0#16
    let records := (List.range (bytes.length / 2)).map fun i => decodeRecord catalog (wordAt i)
    decodeStream Config.hardware bytes =
      (records, if bytes.length % 2 = 1 then .truncatedStream else .none) ∧
    renderStream Config.hardware bytes =
      (List.range (bytes.length / 2)).flatMap
        (fun i => render (decodeRecord catalog (wordAt i)) ++ [Char.ofNat 0x0A]) ∧
    (∀ i : Nat, i < bytes.length / 2 → memReadWord bytes (2 * i) = some (wordAt i)) ∧
    (renderStream Config.hardware bytes).count '\n' = bytes.length / 2 ∧
    '\r' ∉ renderStream Config.hardware bytes ∧
    (2 ≤ bytes.length → (renderStream Config.hardware bytes).getLast? = some '\n') ∧
    (bytes.length < 2 → renderStream Config.hardware bytes = [])

/-- Lines tell words apart except inside CLR (R83, 95 V8). -/
def Obligations.LinesTellWordsApart : Prop :=
  ∀ v w : Word, render (decodeRecord catalog v) = render (decodeRecord catalog w) ↔
    v = w ∨ (matchForm catalog v = .clr ∧ matchForm catalog w = .clr ∧ bits v 8 4 = bits w 8 4)
end

