-- ==== Sys2Proof/Laws/Env.lean ====
section
/-! SUPPORT. What the environment presents, cycle by cycle (spec/20_memory.md R33, 70_reset_and_hazards.md R104). -/

namespace Sys2Proof.Machine

@[simp] theorem presented_nil : presented [] = [] := rfl

theorem presented_cons_idle {c : PortIn} (h : c.inValid = false) (cs : List PortIn) :
    presented (c :: cs) = presented cs := by
  simp [presented, h]

theorem presented_cons_valid {c : PortIn} (h : c.inValid = true) (cs : List PortIn) :
    presented (c :: cs) = (c.inByte, c.inLast) :: presented cs := by
  simp [presented, h]

/-- A stream's marks, its bytes in order. -/
theorem map_fst_markLast (bytes : List Byte) : (markLast bytes).map Prod.fst = bytes := by
  induction bytes using markLast.induct with
  | case1 => rfl
  | case2 b => rfl
  | case3 b rest _ ih => simp [markLast, ih]

theorem markLast_eq_nil {bytes : List Byte} : markLast bytes = [] ↔ bytes = [] := by
  constructor
  · intro h
    simpa [h] using (map_fst_markLast bytes).symm
  · rintro rfl
    rfl

end Sys2Proof.Machine
end

