-- ==== Sys2Proof/Laws/State.lean ====
section
/-! SUPPORT. What each operation of Sys2Proof/Machine/Ops.lean and Assembler.lean leaves in each field of State,
one lemma per field, so that no proof unfolds a record update. -/

namespace Sys2Proof.Machine

/-! ### `emit` -/

@[simp] theorem emit_phase (r : Record) (s : State) : (emit r s).phase = s.phase := rfl
@[simp] theorem emit_lo (r : Record) (s : State) : (emit r s).lo = s.lo := rfl
@[simp] theorem emit_errTruncated (r : Record) (s : State) : (emit r s).errTruncated = s.errTruncated := rfl
@[simp] theorem emit_pending (r : Record) (s : State) : (emit r s).pending = s.pending := rfl
@[simp] theorem emit_out (r : Record) (s : State) : (emit r s).out = portsOfRecord r s.errTruncated := rfl
@[simp] theorem emit_emitted (r : Record) (s : State) : (emit r s).emitted = s.emitted ++ [r] := rfl
@[simp] theorem emit_resets (r : Record) (s : State) : (emit r s).resets = s.resets := rfl

/-! ### `idleCycle` -/

@[simp] theorem idleCycle_phase (s : State) : (idleCycle s).phase = s.phase := rfl
@[simp] theorem idleCycle_lo (s : State) : (idleCycle s).lo = s.lo := rfl
@[simp] theorem idleCycle_errTruncated (s : State) : (idleCycle s).errTruncated = s.errTruncated := rfl
@[simp] theorem idleCycle_pending (s : State) : (idleCycle s).pending = s.pending := rfl
@[simp] theorem idleCycle_out (s : State) : (idleCycle s).out = portsQuiet s.errTruncated := rfl
@[simp] theorem idleCycle_emitted (s : State) : (idleCycle s).emitted = s.emitted := rfl
@[simp] theorem idleCycle_resets (s : State) : (idleCycle s).resets = s.resets := rfl

/-! ### `holdLow` -/

@[simp] theorem holdLow_phase (b : Byte) (s : State) : (holdLow b s).phase = .high := rfl
@[simp] theorem holdLow_lo (b : Byte) (s : State) : (holdLow b s).lo = b := rfl
@[simp] theorem holdLow_errTruncated (b : Byte) (s : State) : (holdLow b s).errTruncated = s.errTruncated := rfl
@[simp] theorem holdLow_pending (b : Byte) (s : State) : (holdLow b s).pending = s.pending := rfl
@[simp] theorem holdLow_out (b : Byte) (s : State) : (holdLow b s).out = portsQuiet s.errTruncated := rfl
@[simp] theorem holdLow_emitted (b : Byte) (s : State) : (holdLow b s).emitted = s.emitted := rfl
@[simp] theorem holdLow_resets (b : Byte) (s : State) : (holdLow b s).resets = s.resets := rfl

/-! ### `raiseTruncatedStream` -/

@[simp] theorem raiseTruncatedStream_phase (p : TruncPolicy) (s : State) : (raiseTruncatedStream p s).phase = s.phase := rfl
@[simp] theorem raiseTruncatedStream_lo (p : TruncPolicy) (s : State) : (raiseTruncatedStream p s).lo = s.lo := rfl
@[simp] theorem raiseTruncatedStream_errTruncated (p : TruncPolicy) (s : State) : (raiseTruncatedStream p s).errTruncated = errAfterTruncation p s.errTruncated := rfl
@[simp] theorem raiseTruncatedStream_pending (p : TruncPolicy) (s : State) : (raiseTruncatedStream p s).pending = s.pending := rfl
@[simp] theorem raiseTruncatedStream_out (p : TruncPolicy) (s : State) : (raiseTruncatedStream p s).out = portsQuiet s.errTruncated := rfl
@[simp] theorem raiseTruncatedStream_emitted (p : TruncPolicy) (s : State) : (raiseTruncatedStream p s).emitted = s.emitted := rfl
@[simp] theorem raiseTruncatedStream_resets (p : TruncPolicy) (s : State) : (raiseTruncatedStream p s).resets = s.resets := rfl

/-! ### `acceptHigh` -/

@[simp] theorem acceptHigh_phase (s : State) : (acceptHigh s).phase = .low := rfl
@[simp] theorem acceptHigh_lo (s : State) : (acceptHigh s).lo = s.lo := rfl
@[simp] theorem acceptHigh_errTruncated (s : State) : (acceptHigh s).errTruncated = s.errTruncated := rfl
@[simp] theorem acceptHigh_pending (s : State) : (acceptHigh s).pending = s.pending := rfl
@[simp] theorem acceptHigh_out (s : State) : (acceptHigh s).out = s.out := rfl
@[simp] theorem acceptHigh_emitted (s : State) : (acceptHigh s).emitted = s.emitted := rfl
@[simp] theorem acceptHigh_resets (s : State) : (acceptHigh s).resets = s.resets := rfl

/-! ### `resetCycle` -/

@[simp] theorem resetCycle_phase (s : State) : (resetCycle s).phase = .low := rfl
@[simp] theorem resetCycle_lo (s : State) : (resetCycle s).lo = Config.freeLo s.resets := rfl
@[simp] theorem resetCycle_errTruncated (s : State) : (resetCycle s).errTruncated = false := rfl
@[simp] theorem resetCycle_pending (s : State) : (resetCycle s).pending = s.pending := rfl
@[simp] theorem resetCycle_out (s : State) : (resetCycle s).out = portsQuiet s.errTruncated := rfl
@[simp] theorem resetCycle_emitted (s : State) : (resetCycle s).emitted = s.emitted := rfl
@[simp] theorem resetCycle_resets (s : State) : (resetCycle s).resets = s.resets + 1 := rfl

/-! ### `takeInput` -/

@[simp] theorem takeInput_phase (s : State) : (takeInput s).phase = s.phase := rfl
@[simp] theorem takeInput_lo (s : State) : (takeInput s).lo = s.lo := rfl
@[simp] theorem takeInput_errTruncated (s : State) : (takeInput s).errTruncated = s.errTruncated := rfl
@[simp] theorem takeInput_pending (s : State) : (takeInput s).pending = s.pending.tail := rfl
@[simp] theorem takeInput_out (s : State) : (takeInput s).out = s.out := rfl
@[simp] theorem takeInput_emitted (s : State) : (takeInput s).emitted = s.emitted := rfl
@[simp] theorem takeInput_resets (s : State) : (takeInput s).resets = s.resets := rfl

/-! ### `placeBytes` -/

@[simp] theorem placeBytes_phase (lo hi : Byte) (s : State) : (placeBytes lo hi s).phase = .high := rfl
@[simp] theorem placeBytes_lo (lo hi : Byte) (s : State) : (placeBytes lo hi s).lo = lo := rfl
@[simp] theorem placeBytes_errTruncated (lo hi : Byte) (s : State) : (placeBytes lo hi s).errTruncated = s.errTruncated := rfl
@[simp] theorem placeBytes_pending (lo hi : Byte) (s : State) : (placeBytes lo hi s).pending = 
      { rst := false, inValid := true, inByte := hi, inLast := false } :: s.pending := rfl
@[simp] theorem placeBytes_out (lo hi : Byte) (s : State) : (placeBytes lo hi s).out = s.out := rfl
@[simp] theorem placeBytes_emitted (lo hi : Byte) (s : State) : (placeBytes lo hi s).emitted = s.emitted := rfl
@[simp] theorem placeBytes_resets (lo hi : Byte) (s : State) : (placeBytes lo hi s).resets = s.resets := rfl

end Sys2Proof.Machine
end

