-- ==== Sys2Proof/Laws/Words.lean ====
section
/-! SUPPORT. Facts about words, bytes and masks that statements about the catalog are proved from. -/

namespace Sys2Proof

/-- A test under a wide mask decides every test under a narrower one: how two entries with nested masks are told
apart. -/
theorem and_of_and_wider {w m p n : Word} (h : w &&& m = p) (hn : m &&& n = n) : w &&& n = p &&& n := by
  rw [← h, BitVec.and_assoc, hn]

theorem lowByte_wordOfBytes (lo hi : Byte) : lowByte (wordOfBytes lo hi) = lo := by
  unfold lowByte wordOfBytes
  exact BitVec.extractLsb'_append_eq_right

theorem highByte_wordOfBytes (lo hi : Byte) : highByte (wordOfBytes lo hi) = hi := by
  unfold highByte wordOfBytes
  exact BitVec.extractLsb'_append_eq_left

theorem wordOfBytes_low_high (w : Word) : wordOfBytes (lowByte w) (highByte w) = w := by
  unfold wordOfBytes lowByte highByte
  ext i hi
  simp only [BitVec.getElem_append, BitVec.getElem_extractLsb']
  split
  · simp [BitVec.getLsbD_eq_getElem hi]
  · have : 8 + (i - 8) = i := by omega
    simp [this, BitVec.getLsbD_eq_getElem hi]

/-- The bytes of an instruction decode to the decoding of its word. -/
theorem decodeBytes_encodeBytes (i : Instr) (rest : List Byte) :
    decodeBytes (encodeBytes i ++ rest) = .ok (decode (encode i), rest) := by
  simp [encodeBytes, decodeBytes, wordOfBytes_low_high]

/-! ### The masks of the catalog on words written field by field (spec/30_encoding.md R36, R38) -/

theorem and_FC00 (o : BitVec 6) (a : BitVec 1) (b : BitVec 5) (c : BitVec 4) :
    (o ++ a ++ b ++ c : Word) &&& 0xFC00#16 = o ++ 0#1 ++ 0#5 ++ 0#4 := by
  have h : (o ++ a ++ b ++ c) &&& (BitVec.allOnes 6 ++ 0#1 ++ 0#5 ++ 0#4) = o ++ 0#1 ++ 0#5 ++ 0#4 := by
    simp only [BitVec.and_append, BitVec.and_zero, BitVec.and_allOnes]
  exact h

theorem and_F000 (o a b c : BitVec 4) :
    (o ++ a ++ b ++ c : Word) &&& 0xF000#16 = o ++ 0#4 ++ 0#4 ++ 0#4 := by
  have h : (o ++ a ++ b ++ c) &&& (BitVec.allOnes 4 ++ 0#4 ++ 0#4 ++ 0#4) = o ++ 0#4 ++ 0#4 ++ 0#4 := by
    simp only [BitVec.and_append, BitVec.and_zero, BitVec.and_allOnes]
  exact h

theorem and_FF00 (o : BitVec 8) (a b : BitVec 2) (c : BitVec 4) :
    (o ++ a ++ b ++ c : Word) &&& 0xFF00#16 = o ++ 0#2 ++ 0#2 ++ 0#4 := by
  have h : (o ++ a ++ b ++ c) &&& (BitVec.allOnes 8 ++ 0#2 ++ 0#2 ++ 0#4) = o ++ 0#2 ++ 0#2 ++ 0#4 := by
    simp only [BitVec.and_append, BitVec.and_zero, BitVec.and_allOnes]
  exact h

theorem and_FE0F (o : BitVec 7) (d : BitVec 5) (sel : BitVec 4) :
    (o ++ d ++ sel : Word) &&& 0xFE0F#16 = o ++ 0#5 ++ sel := by
  have h : (o ++ d ++ sel) &&& (BitVec.allOnes 7 ++ 0#5 ++ BitVec.allOnes 4) = o ++ 0#5 ++ sel := by
    simp only [BitVec.and_append, BitVec.and_zero, BitVec.and_allOnes]
  exact h

theorem and_FC07 (o : BitVec 6) (d : BitVec 7) (sel : BitVec 3) :
    (o ++ d ++ sel : Word) &&& 0xFC07#16 = o ++ 0#7 ++ sel := by
  have h : (o ++ d ++ sel) &&& (BitVec.allOnes 6 ++ 0#7 ++ BitVec.allOnes 3) = o ++ 0#7 ++ sel := by
    simp only [BitVec.and_append, BitVec.and_zero, BitVec.and_allOnes]
  exact h

end Sys2Proof
end

