-- ==== Sys2Proof/Laws/Ops.lean ====
section
/-! SUPPORT. One lemma for each shared operation that says once everything it can do: the event of a cycle, the
effect of a meaning, the cases of a step. -/

namespace Sys2Proof.Machine

/-! ### The event of a cycle (spec/20_memory.md R33, 70_reset_and_hazards.md R99) -/

theorem cycleEvent_of_rst {phase : Phase} {lo : Byte} {inp : PortIn} (h : inp.rst = true) :
    cycleEvent phase lo inp = .reset := by
  simp [cycleEvent, h]

theorem cycleEvent_of_not_valid {phase : Phase} {lo : Byte} {inp : PortIn} (hr : inp.rst = false)
    (hv : inp.inValid = false) : cycleEvent phase lo inp = .idle := by
  simp [cycleEvent, hr, hv]

theorem cycleEvent_low_last {lo : Byte} {inp : PortIn} (hr : inp.rst = false) (hv : inp.inValid = true)
    (hl : inp.inLast = true) : cycleEvent .low lo inp = .truncated := by
  simp [cycleEvent, hr, hv, hl]

theorem cycleEvent_low {lo : Byte} {inp : PortIn} (hr : inp.rst = false) (hv : inp.inValid = true)
    (hl : inp.inLast = false) : cycleEvent .low lo inp = .lowByte inp.inByte := by
  simp [cycleEvent, hr, hv, hl]

theorem cycleEvent_high {lo : Byte} {inp : PortIn} (hr : inp.rst = false) (hv : inp.inValid = true) :
    cycleEvent .high lo inp = .word (wordOfBytes lo inp.inByte) := by
  simp [cycleEvent, hr, hv]

/-! ### Meanings -/

/-- Every meaning emits one record, whose form is the instruction's and whose raw word is its encoding, and does
nothing else. -/
theorem exec_emits (i : Instr) (s : State) :
    ∃ r : Record, r.form = i.form ∧ r.raw = encode i ∧ exec i s = .next (emit r s) := by
  cases i <;> exact ⟨_, rfl, rfl, rfl⟩

/-! ### The step -/

/-- What a step can do: it is a reset cycle, an idle cycle, the holding of a low byte, the raising of
TruncatedStream, or the emission of one record while `phase` goes to 0. -/
theorem step_cases {s t : State} (h : step s = .next t) :
    (cycleEvent s.phase s.lo (currentInput s) = .reset ∧ t = resetCycle (takeInput s)) ∨
    (cycleEvent s.phase s.lo (currentInput s) = .idle ∧ t = idleCycle (takeInput s)) ∨
    (∃ b, cycleEvent s.phase s.lo (currentInput s) = .lowByte b ∧ t = holdLow b (takeInput s)) ∨
    (cycleEvent s.phase s.lo (currentInput s) = .truncated ∧
      t = raiseTruncatedStream .dropAndFlag (takeInput s)) ∨
    (∃ w r, cycleEvent s.phase s.lo (currentInput s) = .word w ∧
      exec (decode w) (acceptHigh (takeInput s)) = .next (emit r (acceptHigh (takeInput s))) ∧
      t = emit r (acceptHigh (takeInput s))) := by
  simp only [step, assemblerCycle, takeInput_phase, takeInput_lo] at h
  cases he : cycleEvent s.phase s.lo (currentInput s) with
  | reset => simp only [he] at h; exact .inl ⟨rfl, (Host.Outcome.next.inj h).symm⟩
  | idle => simp only [he] at h; exact .inr (.inl ⟨rfl, (Host.Outcome.next.inj h).symm⟩)
  | lowByte b =>
    simp only [he] at h
    exact .inr (.inr (.inl ⟨b, rfl, (Host.Outcome.next.inj h).symm⟩))
  | truncated =>
    simp only [he] at h
    exact .inr (.inr (.inr (.inl ⟨rfl, (Host.Outcome.next.inj h).symm⟩)))
  | word w =>
    simp only [he] at h
    obtain ⟨r, -, -, hr⟩ := exec_emits (decode w) (acceptHigh (takeInput s))
    rw [hr] at h
    exact .inr (.inr (.inr (.inr ⟨w, r, rfl, hr, (Host.Outcome.next.inj h).symm⟩)))

/-! ### Taking inputs -/

@[simp] theorem currentInput_cons {s : State} {c : PortIn} {cs : List PortIn} (h : s.pending = c :: cs) :
    currentInput s = c := by
  simp [currentInput, h]

@[simp] theorem currentInput_nil {s : State} (h : s.pending = []) : currentInput s = PortIn.idle := by
  simp [currentInput, h]

/-! ### Placing a word for the next step -/

@[simp] theorem tableBytes_toNat (w : Word) : tableBytes 16 w.toNat = [lowByte w, highByte w] := by
  simp only [tableBytes, Nat.mod_eq_of_lt w.isLt, BitVec.ofNat_toNat, BitVec.setWidth_eq]

theorem withFetchWord_toNat (s : State) (w : Word) :
    s.withFetchWord 16 w.toNat = placeBytes (lowByte w) (highByte w) s := by
  simp [State.withFetchWord, placeTableWord]

/-! ### Runs -/

@[simp] theorem run_zero (s : State) : Sys2Proof.core.run 0 s = .next s := rfl

/-- A run of `n + 1` steps is a step and a run of `n`. -/
theorem run_succ_of_step {n : Nat} {s t : State} (h : step s = .next t) :
    Sys2Proof.core.run (n + 1) s = Sys2Proof.core.run n t := by
  have h' : Sys2Proof.core.step s = .next t := h
  simp only [Host.Core.run, h']

end Sys2Proof.Machine
end

