-- ==== Sys2Proof/Laws/PerInstr.lean ====
section
/-! SUPPORT. Per-instruction facts about the encoding, one lemma per constructor of Instr. -/

namespace Sys2Proof.Laws.EncodingMatches

/-- The encoding of a well-formed instruction has the fixed bits of the catalog entry of its own form
(spec/30_encoding.md R36, R38). UNKNOWN has no entry. -/
def Statement (i : Instr) : Prop :=
  i.wf = true → ∀ e ∈ catalog, e.form = i.form → e.accepts (encode i) = true

/-- A form has one entry: what holds of it holds of every entry of that form. -/
theorem of_only_entry {i : Instr} (e₀ : CatalogEntry) (only : ∀ e ∈ catalog, e.form = e₀.form → e = e₀)
    (hf : i.form = e₀.form) (h : encode i &&& e₀.mask = e₀.pattern &&& e₀.mask) : Statement i := by
  intro _ e he hef
  rw [only e he (hef.trans hf), CatalogEntry.accepts, h, beq_self_eq_true]

theorem nop : Statement .nop :=
  of_only_entry ⟨1, 1, .nop, 0xFFFF#16, 0x0000#16, .fixed⟩ (by decide) rfl rfl

theorem clr (rd : RegIndex) (x : BitVec 5) : Statement (.clr rd x) :=
  of_only_entry ⟨2, 2, .clr, 0xFC00#16, 0x2400#16, .clr1⟩ (by decide) rfl (and_FC00 _ _ _ _)

theorem ldi (rd : RegIndex) (k : Byte) : Statement (.ldi rd k) :=
  of_only_entry ⟨3, 3, .ldi, 0xF000#16, 0xE000#16, .imm8⟩ (by decide) rfl (and_F000 _ _ _ _)

theorem cpi (rd : RegIndex) (k : Byte) : Statement (.cpi rd k) :=
  of_only_entry ⟨4, 3, .cpi, 0xF000#16, 0x3000#16, .imm8⟩ (by decide) rfl (and_F000 _ _ _ _)

theorem sbiw (rd : RegIndex) (k : Byte) : Statement (.sbiw rd k) :=
  of_only_entry ⟨5, 4, .sbiw, 0xFF00#16, 0x9700#16, .pair⟩ (by decide) rfl (and_FF00 _ _ _ _)

theorem ldXinc (rd : RegIndex) : Statement (.ldXinc rd) :=
  of_only_entry ⟨6, 5, .ldXinc, 0xFE0F#16, 0x900D#16, .unary⟩ (by decide) rfl (and_FE0F _ _ _)

theorem ldYinc (rd : RegIndex) : Statement (.ldYinc rd) :=
  of_only_entry ⟨7, 5, .ldYinc, 0xFE0F#16, 0x9009#16, .unary⟩ (by decide) rfl (and_FE0F _ _ _)

theorem ldXdec (rd : RegIndex) : Statement (.ldXdec rd) :=
  of_only_entry ⟨8, 5, .ldXdec, 0xFE0F#16, 0x900E#16, .unary⟩ (by decide) rfl (and_FE0F _ _ _)

theorem inc (rd : RegIndex) : Statement (.inc rd) :=
  of_only_entry ⟨9, 5, .inc, 0xFE0F#16, 0x9403#16, .unary⟩ (by decide) rfl (and_FE0F _ _ _)

theorem dec (rd : RegIndex) : Statement (.dec rd) :=
  of_only_entry ⟨10, 5, .dec, 0xFE0F#16, 0x940A#16, .unary⟩ (by decide) rfl (and_FE0F _ _ _)

theorem mov (rd rr : RegIndex) : Statement (.mov rd rr) :=
  of_only_entry ⟨11, 6, .mov, 0xFC00#16, 0x2C00#16, .reg2⟩ (by decide) rfl (and_FC00 _ _ _ _)

theorem cp (rd rr : RegIndex) : Statement (.cp rd rr) :=
  of_only_entry ⟨12, 6, .cp, 0xFC00#16, 0x1400#16, .reg2⟩ (by decide) rfl (and_FC00 _ _ _ _)

theorem brne (off : Byte) : Statement (.brne off) :=
  of_only_entry ⟨13, 7, .brne, 0xFC07#16, 0xF401#16, .br7⟩ (by decide) rfl (and_FC07 _ _ _)

theorem unknown (raw : Word) : Statement (.unknown raw) := by
  intro _ e he hf
  have h : ∀ e ∈ catalog, e.form ≠ .unknown := by decide
  exact absurd hf (h e he)

end Sys2Proof.Laws.EncodingMatches
end

