-- ==== Sys2Proof/Tests/Slice0.lean ====
section
/-! SUPPORT. The model's own tests: words written out from the spec's bit strings, ill-formed terms, one step of each
form, and for every statement with hypotheses a state and operands that meet them. Expected values are those of
spec/95_test_vectors.md and of the per-form rules. -/

namespace Sys2Proof.Tests

open Sys2Proof Sys2Proof.Machine

/-! ### WellFormed refuses ill-formed terms -/

theorem test_ldi_low_register_refused : (Instr.ldi 15#5 0#8).wf = false := by decide
theorem test_cpi_low_register_refused : (Instr.cpi 0#5 0#8).wf = false := by decide
theorem test_sbiw_odd_register_refused : (Instr.sbiw 25#5 0#8).wf = false := by decide
theorem test_sbiw_wide_literal_refused : (Instr.sbiw 24#5 64#8).wf = false := by decide
theorem test_brne_below_range_refused : (Instr.brne (BitVec.ofInt 8 (-64))).wf = false := by decide
theorem test_brne_above_range_refused : (Instr.brne 65#8).wf = false := by decide
theorem test_unknown_of_cataloged_words_refused :
    [0x0000#16, 0x2400#16, 0xE0A0#16, 0x3000#16, 0x9711#16, 0x910D#16, 0x9109#16, 0x911E#16, 0x9503#16,
      0x951A#16, 0x2F0A#16, 0x1701#16, 0xF7E9#16].all (fun w => !(Instr.unknown w).wf) = true := by decide

/-! ### Decoding, bit by bit from 30_encoding.md R36 -/

theorem test_decode_nop : decode 0b0000000000000000#16 = .nop := by decide
theorem test_decode_clr : decode 0b0010010100011111#16 = .clr 17#5 0b01111#5 := by decide
theorem test_decode_clr_high_ignored_bit : decode 0b0010011000000000#16 = .clr 0#5 0b10000#5 := by decide
theorem test_decode_ldi : decode 0b1110000111110000#16 = .ldi 31#5 0x10#8 := by decide
theorem test_decode_cpi : decode 0b0011101001011010#16 = .cpi 21#5 0xAA#8 := by decide
theorem test_decode_sbiw : decode 0b1001011101000000#16 = .sbiw 24#5 0x10#8 := by decide
theorem test_decode_ldXinc : decode 0b1001000111111101#16 = .ldXinc 31#5 := by decide
theorem test_decode_ldYinc : decode 0b1001000000001001#16 = .ldYinc 0#5 := by decide
theorem test_decode_ldXdec : decode 0b1001000100011110#16 = .ldXdec 17#5 := by decide
theorem test_decode_inc : decode 0b1001010100000011#16 = .inc 16#5 := by decide
theorem test_decode_dec : decode 0b1001010000001010#16 = .dec 0#5 := by decide
theorem test_decode_mov : decode 0b0010111000000000#16 = .mov 0#5 16#5 := by decide
theorem test_decode_cp : decode 0b0001010111110000#16 = .cp 31#5 0#5 := by decide
theorem test_decode_brne : decode 0b1111011000000001#16 = .brne (BitVec.ofInt 8 (-63)) := by decide
theorem test_decode_unknown : decode 0b1001001000001101#16 = .unknown 0x920D#16 := by decide

/-- 95 "Word Assembler alone": the first byte is the low byte. -/
theorem test_decodeBytes_little_endian :
    decodeBytes [0xA0#8, 0xE0#8, 0x24#8] = .ok (.ldi 26#5 0x00#8, [0x24#8]) := by decide
theorem test_decodeBytes_one_byte_rejected : decodeBytes [0xA0#8] = .error (.oneByte 0xA0#8) := by decide
theorem test_decodeTableWord_ldi : decodeTableWord 16 0xE0A0 = some (.ldi 26#5 0x00#8) := by decide

/-! ### One step of each form -/

/-- The state after reset with the word `w` placed for the next step. -/
def at_ (w : Word) : State := State.reset.withFetchWord 16 w.toNat

/-- The state with the given phase, low byte and fault bit in which the given cycles are to come. -/
def coming (phase : Phase) (lo : Byte) (err : Bool) (cs : List PortIn) : State :=
  { State.reset with phase := phase, lo := lo, errTruncated := err, pending := cs }

/-- A cycle that presents a byte. -/
def byte (b : Byte) (last : Bool) : PortIn := ⟨false, true, b, last⟩

/-- A reset cycle; the other inputs are set and ignored. -/
def rstCycle : PortIn := ⟨true, true, 0xFF#8, true⟩

/-- The state a step leads to. -/
def after (s : State) : Option State :=
  match step s with
  | .next t => some t
  | _ => none

/-- The text of the record a step emits. -/
def line (s : State) : Option Text := (after s).bind fun t => t.emitted.getLast?.map render

theorem test_step_nop : line (at_ 0x0000#16) = some "NOP".toList := by decide
theorem test_step_clr : line (at_ 0x2510#16) = some "CLR R17".toList := by decide
theorem test_step_ldi : line (at_ 0xE10F#16) = some "LDI R16,0x1F".toList := by decide
theorem test_step_cpi : line (at_ 0x3FFF#16) = some "CPI R31,0xFF".toList := by decide
theorem test_step_sbiw : line (at_ 0x97FF#16) = some "SBIW R30,0x3F".toList := by decide
theorem test_step_ldXinc : line (at_ 0x910D#16) = some "LD R16,X+".toList := by decide
theorem test_step_ldYinc : line (at_ 0x91F9#16) = some "LD R31,Y+".toList := by decide
theorem test_step_ldXdec : line (at_ 0x911E#16) = some "LD R17,-X".toList := by decide
theorem test_step_inc : line (at_ 0x95F3#16) = some "INC R31".toList := by decide
theorem test_step_dec : line (at_ 0x951A#16) = some "DEC R17".toList := by decide
theorem test_step_mov : line (at_ 0x2F1C#16) = some "MOV R17,R28".toList := by decide
theorem test_step_cp : line (at_ 0x160F#16) = some "CP R0,R31".toList := by decide
theorem test_step_brne_negative : line (at_ 0xF7E9#16) = some "BRNE PC-0x02".toList := by decide
theorem test_step_brne_zero : line (at_ 0xF7F9#16) = some "BRNE PC+0x00".toList := by decide
theorem test_step_unknown : line (at_ 0x0001#16) = some "Unknown 0x0001".toList := by decide

/-- 95 S5: the ports in the cycle of the record. -/
theorem test_ports_brne :
    (after (at_ 0xF7E9#16)).map (·.out) = some ⟨true, 13#4, 0#5, 0#5, 0x00#8, 0xFE#8, 0xF7E9#16, false⟩ := by
  decide

/-- 95 P4, cycle 6: the partnerless last byte; the output port still shows 0 in that cycle, `lo` is kept. -/
theorem test_odd_last_byte :
    (after (coming .low 0xE9#8 false [byte 0x24#8 true])).map
      (fun t => (t.phase, t.lo, t.errTruncated, t.out, t.emitted)) =
    some (.low, 0xE9#8, true, ⟨false, 0#4, 0#5, 0#5, 0#8, 0#8, 0#16, false⟩, []) := by
  decide

/-- 95 P4, cycle 10: reset clears the fault bit, whatever the other inputs are. -/
theorem test_reset_cycle :
    (after (coming .high 0x00#8 true [rstCycle])).map (fun t => (t.phase, t.errTruncated, t.emitted)) =
    some (.low, false, []) := by
  decide

/-- 95 P3 at function level. -/
theorem test_decodeStream_odd :
    decodeStream Config.hardware [0xA0#8, 0xE0#8, 0xE9#8, 0xF7#8, 0x24#8] =
      ([⟨.ldi, 26#5, 0#5, 0x00#8, 0x00#8, 0xE0A0#16⟩, ⟨.brne, 0#5, 0#5, 0x00#8, 0xFE#8, 0xF7E9#16⟩],
        .truncatedStream) := by
  decide

/-- 95 P7: the second word of a two-word instruction of the target is decoded on its own. -/
theorem test_renderStream :
    renderStream Config.hardware [0x00#8, 0x91#8, 0x00#8, 0x24#8] = "Unknown 0x9100\nCLR R0\n".toList := by
  decide

/-! ### Every statement with hypotheses: a state and operands that meet them -/

/-- `CompletesWord` as a test. -/
def completes (s : State) (w : Word) : Bool :=
  s.phase == .high && !(currentInput s).rst && (currentInput s).inValid &&
    wordOfBytes s.lo (currentInput s).inByte == w

theorem completesWord_of_completes {s : State} {w : Word} (h : completes s w = true) : CompletesWord s w := by
  simp only [completes, Bool.and_eq_true, beq_iff_eq, Bool.not_eq_true'] at h
  exact ⟨h.1.1.1, ⟨h.1.1.2, h.1.2⟩, h.2⟩

theorem test_witness_DecodeOfEncodeIsIdentity :
    [Instr.nop, .clr 0#5 0#5, .clr 31#5 31#5, .ldi 16#5 0#8, .ldi 31#5 255#8, .cpi 16#5 0#8, .cpi 31#5 255#8,
      .sbiw 24#5 0#8, .sbiw 30#5 63#8, .ldXinc 0#5, .ldYinc 31#5, .ldXdec 0#5, .inc 31#5, .dec 0#5,
      .mov 31#5 0#5, .cp 0#5 31#5, .brne (BitVec.ofInt 8 (-63)), .brne 64#8, .unknown 0x0001#16,
      .unknown 0xFFFF#16].all (·.wf) = true := by
  decide

theorem test_witness_EntriesExclusiveInAnyOrder : catalog.reverse.Perm catalog ∧ catalog.reverse ≠ catalog :=
  ⟨List.reverse_perm catalog, by decide⟩

theorem test_witness_PatternBitsOutsideMaskIrrelevant :
    0x27FF#16 &&& 0xFC00#16 = 0x2400#16 &&& 0xFC00#16 ∧ 0x27FF#16 ≠ 0x2400#16 := by decide

/-- A cycle with a record, and an idle and a reset cycle without one. -/
theorem test_witness_FormCodesOnThePort :
    (∃ t, CompletesWord (at_ 0xF401#16) 0xF401#16 ∧ step (at_ 0xF401#16) = .next t) ∧
    (∃ t, step State.reset = .next t) ∧ (∃ t, step (coming .high 0xA0#8 true [rstCycle]) = .next t) :=
  ⟨⟨_, completesWord_of_completes (by decide), rfl⟩, ⟨_, rfl⟩, ⟨_, rfl⟩⟩

theorem test_witness_ImmediateFormsComplete :
    16 ≤ (16#5).toNat ∧ 16 ≤ (31#5).toNat ∧ (24#5).toNat ∈ [24, 26, 28, 30] ∧ (30#5).toNat ∈ [24, 26, 28, 30] ∧
      (0#8).toNat ≤ 63 ∧ (63#8).toNat ≤ 63 := by decide

theorem test_witness_BrneCompletes :
    -63 ≤ (BitVec.ofInt 8 (-63)).toInt ∧ (BitVec.ofInt 8 (-63)).toInt ≤ 64 ∧ -63 ≤ (64#8).toInt ∧
      (64#8).toInt ≤ 64 := by decide

theorem test_witness_NopWord : CompletesWord (at_ 0x0000#16) 0x0000#16 := completesWord_of_completes (by decide)

theorem test_witness_ClrWord :
    (CompletesWord (at_ 0x2400#16) 0x2400#16 ∧ 0x2400#16 &&& 0xFC00#16 = 0x2400#16) ∧
    (CompletesWord (at_ 0x27FF#16) 0x27FF#16 ∧ 0x27FF#16 &&& 0xFC00#16 = 0x2400#16) :=
  ⟨⟨completesWord_of_completes (by decide), by decide⟩, ⟨completesWord_of_completes (by decide), by decide⟩⟩

theorem test_witness_LdiWord :
    (CompletesWord (at_ 0xE000#16) 0xE000#16 ∧ 0xE000#16 &&& 0xF000#16 = 0xE000#16) ∧
    (CompletesWord (at_ 0xEFFF#16) 0xEFFF#16 ∧ 0xEFFF#16 &&& 0xF000#16 = 0xE000#16) ∧
    16 ≤ (16#5).toNat ∧ 16 ≤ (31#5).toNat :=
  ⟨⟨completesWord_of_completes (by decide), by decide⟩, ⟨completesWord_of_completes (by decide), by decide⟩,
    by decide, by decide⟩

theorem test_witness_CpiWord :
    (CompletesWord (at_ 0x3000#16) 0x3000#16 ∧ 0x3000#16 &&& 0xF000#16 = 0x3000#16) ∧
    (CompletesWord (at_ 0x3FFF#16) 0x3FFF#16 ∧ 0x3FFF#16 &&& 0xF000#16 = 0x3000#16) ∧
    16 ≤ (16#5).toNat ∧ matchForm catalog 0xE0A0#16 = .ldi :=
  ⟨⟨completesWord_of_completes (by decide), by decide⟩, ⟨completesWord_of_completes (by decide), by decide⟩,
    by decide, by decide⟩

theorem test_witness_SbiwWord :
    (CompletesWord (at_ 0x9700#16) 0x9700#16 ∧ 0x9700#16 &&& 0xFF00#16 = 0x9700#16) ∧
    (CompletesWord (at_ 0x97FF#16) 0x97FF#16 ∧ 0x97FF#16 &&& 0xFF00#16 = 0x9700#16) ∧ 3 < 4 ∧ 63 < 64 :=
  ⟨⟨completesWord_of_completes (by decide), by decide⟩, ⟨completesWord_of_completes (by decide), by decide⟩,
    by decide, by decide⟩

theorem test_witness_LdXincWord :
    (CompletesWord (at_ 0x900D#16) 0x900D#16 ∧ 0x900D#16 &&& 0xFE0F#16 = 0x900D#16) ∧
    (CompletesWord (at_ 0x91FD#16) 0x91FD#16 ∧ 0x91FD#16 &&& 0xFE0F#16 = 0x900D#16) :=
  ⟨⟨completesWord_of_completes (by decide), by decide⟩, ⟨completesWord_of_completes (by decide), by decide⟩⟩

theorem test_witness_LdYincWord :
    (CompletesWord (at_ 0x9009#16) 0x9009#16 ∧ 0x9009#16 &&& 0xFE0F#16 = 0x9009#16) ∧
    (CompletesWord (at_ 0x91F9#16) 0x91F9#16 ∧ 0x91F9#16 &&& 0xFE0F#16 = 0x9009#16) :=
  ⟨⟨completesWord_of_completes (by decide), by decide⟩, ⟨completesWord_of_completes (by decide), by decide⟩⟩

theorem test_witness_LdXdecWord :
    (CompletesWord (at_ 0x900E#16) 0x900E#16 ∧ 0x900E#16 &&& 0xFE0F#16 = 0x900E#16) ∧
    (CompletesWord (at_ 0x91FE#16) 0x91FE#16 ∧ 0x91FE#16 &&& 0xFE0F#16 = 0x900E#16) :=
  ⟨⟨completesWord_of_completes (by decide), by decide⟩, ⟨completesWord_of_completes (by decide), by decide⟩⟩

theorem test_witness_IncWord :
    (CompletesWord (at_ 0x9403#16) 0x9403#16 ∧ 0x9403#16 &&& 0xFE0F#16 = 0x9403#16) ∧
    (CompletesWord (at_ 0x95F3#16) 0x95F3#16 ∧ 0x95F3#16 &&& 0xFE0F#16 = 0x9403#16) :=
  ⟨⟨completesWord_of_completes (by decide), by decide⟩, ⟨completesWord_of_completes (by decide), by decide⟩⟩

theorem test_witness_DecWord :
    (CompletesWord (at_ 0x940A#16) 0x940A#16 ∧ 0x940A#16 &&& 0xFE0F#16 = 0x940A#16) ∧
    (CompletesWord (at_ 0x95FA#16) 0x95FA#16 ∧ 0x95FA#16 &&& 0xFE0F#16 = 0x940A#16) :=
  ⟨⟨completesWord_of_completes (by decide), by decide⟩, ⟨completesWord_of_completes (by decide), by decide⟩⟩

theorem test_witness_MovWord :
    (CompletesWord (at_ 0x2C00#16) 0x2C00#16 ∧ 0x2C00#16 &&& 0xFC00#16 = 0x2C00#16) ∧
    (CompletesWord (at_ 0x2FFF#16) 0x2FFF#16 ∧ 0x2FFF#16 &&& 0xFC00#16 = 0x2C00#16) :=
  ⟨⟨completesWord_of_completes (by decide), by decide⟩, ⟨completesWord_of_completes (by decide), by decide⟩⟩

theorem test_witness_CpWord :
    (CompletesWord (at_ 0x1400#16) 0x1400#16 ∧ 0x1400#16 &&& 0xFC00#16 = 0x1400#16) ∧
    (CompletesWord (at_ 0x17FF#16) 0x17FF#16 ∧ 0x17FF#16 &&& 0xFC00#16 = 0x1400#16) :=
  ⟨⟨completesWord_of_completes (by decide), by decide⟩, ⟨completesWord_of_completes (by decide), by decide⟩⟩

/-- The least offset, -1 and 0 (where the two text clauses meet), the greatest offset. -/
theorem test_witness_BrneWord :
    (CompletesWord (at_ 0xF601#16) 0xF601#16 ∧ 0xF601#16 &&& 0xFC07#16 = 0xF401#16) ∧
    (CompletesWord (at_ 0xF7F1#16) 0xF7F1#16 ∧ 0xF7F1#16 &&& 0xFC07#16 = 0xF401#16) ∧
    (CompletesWord (at_ 0xF7F9#16) 0xF7F9#16 ∧ 0xF7F9#16 &&& 0xFC07#16 = 0xF401#16) ∧
    (CompletesWord (at_ 0xF5F9#16) 0xF5F9#16 ∧ 0xF5F9#16 &&& 0xFC07#16 = 0xF401#16) :=
  ⟨⟨completesWord_of_completes (by decide), by decide⟩, ⟨completesWord_of_completes (by decide), by decide⟩,
    ⟨completesWord_of_completes (by decide), by decide⟩, ⟨completesWord_of_completes (by decide), by decide⟩⟩

theorem test_witness_BrneWord_offsets :
    (rel7 0xF601#16).toInt = -63 ∧ (rel7 0xF7F1#16).toInt = -1 ∧ (rel7 0xF7F9#16).toInt = 0 ∧
      (rel7 0xF5F9#16).toInt = 64 := by decide

theorem test_witness_BranchOffsetBySteps :
    bits 0xF401#16 9 3 = 0x00 ∧ bits 0xF451#16 9 3 = 0x0A ∧ bits 0xF5F9#16 9 3 = 0x3F ∧
    bits 0xF601#16 9 3 = 0x40 ∧ bits 0xF7E9#16 9 3 = 0x7D ∧ bits 0xF7F1#16 9 3 = 0x7E ∧
    bits 0xF7F9#16 9 3 = 0x7F := by decide

theorem test_witness_OperandArithmeticNeverWraps : (rel7 0xF601#16).toInt < 0 := by decide

theorem test_witness_UnknownWord :
    (CompletesWord (at_ 0x0001#16) 0x0001#16 ∧ matchForm catalog 0x0001#16 = .unknown) ∧
    (CompletesWord (at_ 0xFFFF#16) 0xFFFF#16 ∧ matchForm catalog 0xFFFF#16 = .unknown) :=
  ⟨⟨completesWord_of_completes (by decide), by decide⟩, ⟨completesWord_of_completes (by decide), by decide⟩⟩

theorem test_witness_StepRunsTheDecodedInstruction :
    (Instr.brne (BitVec.ofInt 8 (-63))).wf = true ∧
      CompletesWord (at_ 0xF601#16) (encode (.brne (BitVec.ofInt 8 (-63)))) :=
  ⟨by decide, completesWord_of_completes (by decide)⟩

theorem test_witness_WordAssemblerStep :
    (let s := coming .high 0xA0#8 false [PortIn.idle]
     (currentInput s).rst = false ∧ (currentInput s).inValid = false) ∧
    (let s := coming .low 0#8 false [byte 0xA0#8 false]
     (currentInput s).rst = false ∧ (currentInput s).inValid = true ∧ s.phase = .low ∧
       (currentInput s).inLast = false) ∧
    (let s := coming .low 0#8 false [byte 0x24#8 true]
     (currentInput s).rst = false ∧ (currentInput s).inValid = true ∧ s.phase = .low ∧
       (currentInput s).inLast = true) ∧
    (let s := coming .high 0xA0#8 true [byte 0xE0#8 true]
     (currentInput s).rst = false ∧ (currentInput s).inValid = true ∧ s.phase = .high) := by decide

theorem test_witness_RecordPresentedExactlyWithHighByte :
    (after (at_ 0xE0A0#16)).map (·.out.outValid) = some true ∧
    (after State.reset).map (·.out.outValid) = some false := by decide

theorem test_witness_RecordDependsOnTheWordAlone :
    CompletesWord (coming .high 0xA0#8 true [byte 0xE0#8 true]) 0xE0A0#16 ∧
      CompletesWord (at_ 0xE0A0#16) 0xE0A0#16 :=
  ⟨completesWord_of_completes (by decide), completesWord_of_completes (by decide)⟩

theorem test_witness_NothingStopsTheBlock : CompletesWord (at_ 0xFFFF#16) 0xFFFF#16 :=
  completesWord_of_completes (by decide)

theorem test_witness_TruncatedStreamRaised :
    let s := coming .low 0#8 false [byte 0x24#8 true]
    AcceptsByte s ∧ s.phase = .low ∧ (currentInput s).inLast = true ∧ s.errTruncated = false ∧
      (after s).map (·.errTruncated) = some true :=
  ⟨⟨rfl, rfl⟩, by decide⟩

theorem test_witness_FaultBit : ∃ t, step (coming .low 0#8 true [byte 0x24#8 false]) = .next t := ⟨_, rfl⟩

theorem test_witness_FaultBitIsSticky :
    let s := coming .low 0#8 true [byte 0x24#8 true, byte 0x00#8 false]
    (∀ c ∈ s.pending.take 2, c.rst = false) ∧ s.errTruncated = true ∧ s.phase = .low ∧ AcceptsByte s ∧
      (currentInput s).inLast = true ∧ ∃ t, Sys2Proof.core.run 2 s = .next t :=
  ⟨by decide, rfl, rfl, ⟨rfl, rfl⟩, rfl, ⟨_, rfl⟩⟩

theorem test_witness_ConditionsNeverCoincide :
    (after (coming .low 0#8 false [byte 0x24#8 true])).map (·.errTruncated) = some true ∧
    (after (at_ 0x0000#16)).map (·.emitted.length) = some 1 ∧
    (currentInput (coming .low 0#8 true [rstCycle])).rst = true := by decide

theorem test_witness_ResetCycle :
    let s := coming .high 0xA0#8 true [rstCycle]
    (currentInput s).rst = true ∧ s.errTruncated = true ∧
      (after s).map (·.errTruncated) = some false := by decide

theorem test_witness_ResetDiscardsTheHeldByte :
    let s := coming .high 0xA0#8 false [rstCycle, byte 0xE0#8 false]
    s.phase = .high ∧ (currentInput s).rst = true ∧
      ∃ t, step s = .next t ∧ AcceptsByte t ∧ (currentInput t).inLast = false :=
  ⟨rfl, rfl, ⟨_, rfl, ⟨rfl, rfl⟩, rfl⟩⟩

theorem test_witness_BlockWaitsWithStateUnchanged : (coming .high 0xA0#8 true []).pending = [] := rfl

theorem test_witness_WordsAreLittleEndianPairs :
    (words [0xA0#8, 0xE0#8, 0x24#8])[0]? = some 0xE0A0#16 := by decide

theorem test_witness_OddLengthDropsTheLastByte :
    ([] : List Byte).length % 2 = 0 ∧ [0xA0#8, 0xE0#8].length % 2 = 0 := by decide

theorem test_witness_RecordsInInputOrder :
    let bytes := [0xA0#8, 0xE0#8, 0xE9#8, 0xF7#8]
    let other := [0x00#8, 0x00#8, 0xE9#8, 0xF7#8, 0x24#8]
    other[2 * 1]? = bytes[2 * 1]? ∧ other[2 * 1 + 1]? = bytes[2 * 1 + 1]? ∧ other ≠ bytes := by decide

theorem test_witness_StreamsDecodePieceByPiece : [0xA0#8, 0xE0#8].length % 2 = 0 := by decide

/-- 95 P4: the five bytes of P3 with an idle cycle inside the first word; and the empty stream in one idle cycle. -/
theorem test_witness_PortsComputeDecodeStream :
    let cs := [byte 0xA0#8 false, PortIn.idle, byte 0xE0#8 false, byte 0xE9#8 false, byte 0xF7#8 false,
      byte 0x24#8 true]
    ((coming .low 0#8 false (cs ++ [rstCycle])).phase = .low ∧
      (coming .low 0#8 false (cs ++ [rstCycle])).pending = cs ++ [rstCycle] ∧
      PresentsStream cs [0xA0#8, 0xE0#8, 0xE9#8, 0xF7#8, 0x24#8]) ∧ PresentsStream [PortIn.idle] [] :=
  ⟨⟨rfl, rfl, by decide, by decide⟩, by decide, by decide⟩

theorem test_witness_UnmarkedBytesArePairedAcrossStreams :
    let cs := [byte 0xA0#8 false, PortIn.idle, byte 0xE0#8 false, byte 0x24#8 false]
    (coming .low 0#8 true cs).pending = cs ++ [] ∧ (∀ c ∈ cs, c.rst = false) ∧
      presented cs = [0xA0#8, 0xE0#8, 0x24#8].map (fun b => (b, false)) := by decide

/-- Before and after a record. -/
theorem test_witness_StepKeepsInvariant :
    (at_ 0xE0A0#16).Inv ∧ ∃ t, step (at_ 0xE0A0#16) = .next t ∧ t.Inv ∧ ∃ u, step t = .next u := by
  refine ⟨⟨fun r h => absurd h List.not_mem_nil, rfl⟩, _, rfl, ⟨?_, ?_⟩, _, rfl⟩
  · intro r h
    obtain rfl := List.mem_singleton.mp h
    decide
  · exact ⟨_, rfl, rfl⟩

theorem test_witness_UnreadLoIsNeverSeen :
    let s := coming .low 0x00#8 false [byte 0xA0#8 false, byte 0xE0#8 true]
    let s' := coming .low 0xFF#8 false [byte 0xA0#8 false, byte 0xE0#8 true]
    SameButUnreadLo s s' ∧ s ≠ s' ∧ ∃ t, Sys2Proof.core.run 2 s = .next t :=
  ⟨⟨rfl, fun h => nomatch h⟩, by decide, _, rfl⟩

theorem test_witness_LineCharacters :
    matchForm catalog 0x0000#16 ≠ .unknown ∧ matchForm catalog 0xF7E9#16 ≠ .unknown ∧
      matchForm catalog 0xFFFF#16 = .unknown := by decide

theorem test_witness_OneLinePerRecord :
    2 ≤ [0x00#8, 0x24#8].length ∧ 0 < [0x00#8, 0x24#8].length / 2 ∧ [0x00#8].length < 2 ∧
      ([] : List Byte).length < 2 := by decide

end Sys2Proof.Tests
end

/-! ## The record of a word: encoding after decoding (spec/40_matcher_extractor.md R49, R51) -/

namespace Sys2Proof

/-! ### A word from its fields: fixed bits from an entry's pattern, the rest from the word (30_encoding.md R36) -/

/-- Bits that a mask covers are those of any word that agrees under the mask. -/
theorem extractLsb'_eq_of_and_eq {w m p : Word} {start len : Nat} (h : w &&& m = p &&& m)
    (hm : m.extractLsb' start len = BitVec.allOnes len) :
    w.extractLsb' start len = p.extractLsb' start len := by
  have := congrArg (BitVec.extractLsb' start len) h
  rwa [BitVec.extractLsb'_and, BitVec.extractLsb'_and, hm, BitVec.and_allOnes, BitVec.and_allOnes] at this

theorem append_of_and_FC00 {w p : Word} (h : w &&& 0xFC00#16 = p &&& 0xFC00#16) :
    p.extractLsb' 10 6 ++ w.extractLsb' 9 1 ++ w.extractLsb' 4 5 ++ w.extractLsb' 0 4 = w := by
  rw [← extractLsb'_eq_of_and_eq h (start := 10) (by decide)]
  simp (disch := rfl) only [BitVec.extractLsb'_append_extractLsb'_eq_extractLsb']
  exact BitVec.extractLsb'_eq_self

theorem append_of_and_F000 {w p : Word} (h : w &&& 0xF000#16 = p &&& 0xF000#16) :
    p.extractLsb' 12 4 ++ w.extractLsb' 8 4 ++ w.extractLsb' 4 4 ++ w.extractLsb' 0 4 = w := by
  rw [← extractLsb'_eq_of_and_eq h (start := 12) (by decide)]
  simp (disch := rfl) only [BitVec.extractLsb'_append_extractLsb'_eq_extractLsb']
  exact BitVec.extractLsb'_eq_self

theorem append_of_and_FF00 {w p : Word} (h : w &&& 0xFF00#16 = p &&& 0xFF00#16) :
    p.extractLsb' 8 8 ++ w.extractLsb' 6 2 ++ w.extractLsb' 4 2 ++ w.extractLsb' 0 4 = w := by
  rw [← extractLsb'_eq_of_and_eq h (start := 8) (by decide)]
  simp (disch := rfl) only [BitVec.extractLsb'_append_extractLsb'_eq_extractLsb']
  exact BitVec.extractLsb'_eq_self

theorem append_of_and_FE0F {w p : Word} (h : w &&& 0xFE0F#16 = p &&& 0xFE0F#16) :
    p.extractLsb' 9 7 ++ w.extractLsb' 4 5 ++ p.extractLsb' 0 4 = w := by
  rw [← extractLsb'_eq_of_and_eq h (start := 9) (by decide),
    ← extractLsb'_eq_of_and_eq h (start := 0) (by decide)]
  simp (disch := rfl) only [BitVec.extractLsb'_append_extractLsb'_eq_extractLsb']
  exact BitVec.extractLsb'_eq_self

theorem append_of_and_FC07 {w p : Word} (h : w &&& 0xFC07#16 = p &&& 0xFC07#16) :
    p.extractLsb' 10 6 ++ w.extractLsb' 3 7 ++ p.extractLsb' 0 3 = w := by
  rw [← extractLsb'_eq_of_and_eq h (start := 10) (by decide),
    ← extractLsb'_eq_of_and_eq h (start := 0) (by decide)]
  simp (disch := rfl) only [BitVec.extractLsb'_append_extractLsb'_eq_extractLsb']
  exact BitVec.extractLsb'_eq_self

/-! ### The bits of the operands are bits of the word (40_matcher_extractor.md R52 to R58) -/

@[simp] theorem extractLsb'_clrIgnored_high (w : Word) :
    (clrIgnored w).extractLsb' 4 1 = w.extractLsb' 9 1 := BitVec.extractLsb'_append_eq_left

@[simp] theorem extractLsb'_clrIgnored_low (w : Word) :
    (clrIgnored w).extractLsb' 0 4 = w.extractLsb' 0 4 := BitVec.extractLsb'_append_eq_right

@[simp] theorem extractLsb'_regR5_high (w : Word) :
    (regR5 w).extractLsb' 4 1 = w.extractLsb' 9 1 := BitVec.extractLsb'_append_eq_left

@[simp] theorem extractLsb'_regR5_low (w : Word) :
    (regR5 w).extractLsb' 0 4 = w.extractLsb' 0 4 := BitVec.extractLsb'_append_eq_right

@[simp] theorem extractLsb'_imm8_high (w : Word) :
    (imm8 w).extractLsb' 4 4 = w.extractLsb' 8 4 := BitVec.extractLsb'_append_eq_left

@[simp] theorem extractLsb'_imm8_low (w : Word) :
    (imm8 w).extractLsb' 0 4 = w.extractLsb' 0 4 := BitVec.extractLsb'_append_eq_right

@[simp] theorem extractLsb'_imm6_high (w : Word) :
    (imm6 w).extractLsb' 4 2 = w.extractLsb' 6 2 :=
  (BitVec.extractLsb'_setWidth_of_le (by decide)).trans BitVec.extractLsb'_append_eq_left

@[simp] theorem extractLsb'_imm6_low (w : Word) :
    (imm6 w).extractLsb' 0 4 = w.extractLsb' 0 4 :=
  (BitVec.extractLsb'_setWidth_of_le (by decide)).trans BitVec.extractLsb'_append_eq_right

@[simp] theorem extractLsb'_regHi (w : Word) : (regHi w).extractLsb' 0 4 = w.extractLsb' 4 4 := by
  have h : ∀ x : BitVec 4, (16#5 + x.setWidth 5).extractLsb' 0 4 = x := by decide
  exact h _

@[simp] theorem extractLsb'_regPair (w : Word) : (regPair w).extractLsb' 1 2 = w.extractLsb' 4 2 := by
  have h : ∀ x : BitVec 2, (24#5 + 2#5 * x.setWidth 5).extractLsb' 1 2 = x := by decide
  exact h _

@[simp] theorem extractLsb'_rel7_sub_one (w : Word) :
    (rel7 w - 1#8).extractLsb' 0 7 = w.extractLsb' 3 7 := by
  have h : ∀ x : BitVec 7, (x.signExtend 8).extractLsb' 0 7 = x := by decide
  rw [rel7, BitVec.add_sub_cancel, h]

/-! ### Encoding gives the word back -/

theorem and_mask_of_accepts {e : CatalogEntry} {w : Word} (h : e.accepts w = true) :
    w &&& e.mask = e.pattern &&& e.mask := beq_iff_eq.mp h

/-- A word that an entry matches is rebuilt from the entry's fixed bits and the operands extracted from it. -/
theorem encode_extractInstr_of_accepts {e : CatalogEntry} {w : Word} (he : e ∈ catalog)
    (h : e.accepts w = true) : encode (extractInstr e.form w) = w := by
  have hm := and_mask_of_accepts h
  simp only [catalog, List.mem_cons, List.not_mem_nil, or_false] at he
  rcases he with rfl | rfl | rfl | rfl | rfl | rfl | rfl | rfl | rfl | rfl | rfl | rfl | rfl
  · exact ((BitVec.and_allOnes (x := w)).symm.trans hm).symm
  · simp only [extractInstr, encode, extractLsb'_clrIgnored_high, extractLsb'_clrIgnored_low]
    exact (append_of_and_FC00 hm :)
  · simp only [extractInstr, encode, extractLsb'_imm8_high, extractLsb'_imm8_low, extractLsb'_regHi]
    exact (append_of_and_F000 hm :)
  · simp only [extractInstr, encode, extractLsb'_imm8_high, extractLsb'_imm8_low, extractLsb'_regHi]
    exact (append_of_and_F000 hm :)
  · simp only [extractInstr, encode, extractLsb'_imm6_high, extractLsb'_imm6_low, extractLsb'_regPair]
    exact (append_of_and_FF00 hm :)
  · exact (append_of_and_FE0F hm :)
  · exact (append_of_and_FE0F hm :)
  · exact (append_of_and_FE0F hm :)
  · exact (append_of_and_FE0F hm :)
  · exact (append_of_and_FE0F hm :)
  · simp only [extractInstr, encode, extractLsb'_regR5_high, extractLsb'_regR5_low]
    exact (append_of_and_FC00 hm :)
  · simp only [extractInstr, encode, extractLsb'_regR5_high, extractLsb'_regR5_low]
    exact (append_of_and_FC00 hm :)
  · simp only [extractInstr, encode, extractLsb'_rel7_sub_one]
    exact (append_of_and_FC07 hm :)

theorem firstMatch_some {cat : List CatalogEntry} {w : Word} {e : CatalogEntry}
    (h : firstMatch cat w = some e) : e ∈ cat ∧ e.accepts w = true :=
  ⟨List.mem_of_find?_eq_some h, List.find?_some (p := fun e : CatalogEntry => e.accepts w) h⟩

theorem decode_of_firstMatch_some {w : Word} {e : CatalogEntry} (h : firstMatch catalog w = some e) :
    decode w = extractInstr e.form w := by
  simp only [decode, matchForm, h]

theorem decode_of_firstMatch_none {w : Word} (h : firstMatch catalog w = none) :
    decode w = .unknown w := by
  simp only [decode, matchForm, h, extractInstr]

/-- No bit of a word is lost by decoding it: `raw` is the word (R51). -/
theorem encode_decode (w : Word) : encode (decode w) = w := by
  cases h : firstMatch catalog w with
  | none => rw [decode_of_firstMatch_none h, encode]
  | some e =>
    obtain ⟨he, ha⟩ := firstMatch_some h
    rw [decode_of_firstMatch_some h, encode_extractInstr_of_accepts he ha]

end Sys2Proof

namespace Sys2Proof.Machine

/-! ### The meaning of a word is the emission of its record -/

@[simp] theorem extractRecord_raw (fmt : Format) (f : Form) (w : Word) :
    (extractRecord fmt f w).raw = w := by
  cases fmt <;> rfl

theorem extractRecord_with_raw (fmt : Format) (f : Form) (w : Word) :
    { extractRecord fmt f w with raw := w } = extractRecord fmt f w := by
  cases fmt <;> rfl

theorem decodeRecord_of_firstMatch_some {cat : List CatalogEntry} {w : Word} {e : CatalogEntry}
    (h : firstMatch cat w = some e) : decodeRecord cat w = extractRecord e.format e.form w := by
  simp only [decodeRecord, h]

theorem decodeRecord_of_firstMatch_none {cat : List CatalogEntry} {w : Word}
    (h : firstMatch cat w = none) : decodeRecord cat w = recNone .unknown w := by
  simp only [decodeRecord, h]

@[simp] theorem decodeRecord_raw (cat : List CatalogEntry) (w : Word) : (decodeRecord cat w).raw = w := by
  cases h : firstMatch cat w with
  | none => rw [decodeRecord_of_firstMatch_none h, recNone]
  | some e => rw [decodeRecord_of_firstMatch_some h, extractRecord_raw]

/-- An entry's field layout holds exactly the operands of the instruction of its form. -/
theorem exec_extractInstr {e : CatalogEntry} (he : e ∈ catalog) (w : Word) (s : State) :
    exec (extractInstr e.form w) s =
      .next (emit { extractRecord e.format e.form w with raw := encode (extractInstr e.form w) } s) := by
  simp only [catalog, List.mem_cons, List.not_mem_nil, or_false] at he
  rcases he with rfl | rfl | rfl | rfl | rfl | rfl | rfl | rfl | rfl | rfl | rfl | rfl | rfl <;> rfl

/-- Running the decoded word emits the record that R49 gives the word, in every state. -/
theorem exec_decode (w : Word) (s : State) :
    exec (decode w) s = .next (emit (decodeRecord catalog w) s) := by
  cases h : firstMatch catalog w with
  | none =>
    rw [decode_of_firstMatch_none h, decodeRecord_of_firstMatch_none h]
    rfl
  | some e =>
    obtain ⟨he, ha⟩ := firstMatch_some h
    rw [decode_of_firstMatch_some h, exec_extractInstr he, encode_extractInstr_of_accepts he ha,
      extractRecord_with_raw, decodeRecord_of_firstMatch_some h]

/-! ## The step as one function (spec/20_memory.md R33) -/

/-- What a clock edge makes of the state, by the cycle's event. -/
def CycleEvent.effect : CycleEvent → State → State
  | .reset => resetCycle
  | .idle => idleCycle
  | .lowByte b => holdLow b
  | .truncated => raiseTruncatedStream .dropAndFlag
  | .word w => fun s => emit (decodeRecord catalog w) (acceptHigh s)

/-- The event of the coming cycle. -/
def comingEvent (s : State) : CycleEvent := cycleEvent s.phase s.lo (currentInput s)

/-- Every step answers a next state: the effect of the coming event once the input is taken. -/
theorem step_eq_effect (s : State) : step s = .next ((comingEvent s).effect (takeInput s)) := by
  simp only [step, assemblerCycle, takeInput_phase, takeInput_lo, comingEvent]
  cases cycleEvent s.phase s.lo (currentInput s) with
  | reset | idle | lowByte _ | truncated => rfl
  | word w => exact exec_decode w _

theorem eq_effect_of_step {s t : State} (h : step s = .next t) :
    t = (comingEvent s).effect (takeInput s) :=
  (Host.Outcome.next.inj ((step_eq_effect s).symm.trans h)).symm

/-- Which event is coming, case by case of R33 and R99. -/
theorem comingEvent_cases (s : State) :
    ((currentInput s).rst = true ∧ comingEvent s = .reset) ∨
    ((currentInput s).rst = false ∧ (currentInput s).inValid = false ∧ comingEvent s = .idle) ∨
    (AcceptsByte s ∧ s.phase = .low ∧ (currentInput s).inLast = false ∧
      comingEvent s = .lowByte (currentInput s).inByte) ∨
    (AcceptsByte s ∧ s.phase = .low ∧ (currentInput s).inLast = true ∧ comingEvent s = .truncated) ∨
    (AcceptsByte s ∧ s.phase = .high ∧
      comingEvent s = .word (wordOfBytes s.lo (currentInput s).inByte)) := by
  unfold comingEvent
  cases hr : (currentInput s).rst with
  | true => exact .inl ⟨rfl, cycleEvent_of_rst hr⟩
  | false =>
    cases hv : (currentInput s).inValid with
    | false => exact .inr (.inl ⟨rfl, rfl, cycleEvent_of_not_valid hr hv⟩)
    | true =>
      cases s.phase with
      | high => exact .inr (.inr (.inr (.inr ⟨⟨hr, hv⟩, rfl, cycleEvent_high hr hv⟩)))
      | low =>
        cases hl : (currentInput s).inLast with
        | false => exact .inr (.inr (.inl ⟨⟨hr, hv⟩, rfl, rfl, cycleEvent_low hr hv hl⟩))
        | true => exact .inr (.inr (.inr (.inl ⟨⟨hr, hv⟩, rfl, rfl, cycleEvent_low_last hr hv hl⟩)))

/-! ## A completed word (spec/10_state.md R15) -/

theorem comingEvent_of_completesWord {s : State} {w : Word} (h : CompletesWord s w) :
    comingEvent s = .word w := by
  obtain ⟨hphase, ⟨hrst, hvalid⟩, rfl⟩ := h
  rw [comingEvent, hphase, cycleEvent_high hrst hvalid]

/-- The cycle that completes a word emits the word's record. -/
theorem step_of_completesWord {s : State} {w : Word} (h : CompletesWord s w) :
    step s = .next (emit (decodeRecord catalog w) (acceptHigh (takeInput s))) := by
  rw [step_eq_effect, comingEvent_of_completesWord h, CycleEvent.effect]

/-- Settles O37: both steps emit `decodeRecord catalog w`. -/
theorem recordDependsOnTheWordAlone : Obligations.RecordDependsOnTheWordAlone := by
  intro s s' w h h'
  exact ⟨decodeRecord catalog w, _, _, step_of_completesWord h, step_of_completesWord h',
    rfl, rfl, decodeRecord_raw catalog w⟩

/-! ## The fault bit (spec/10_state.md R14) -/

/-- Reset clears the fault bit, a partnerless last byte sets it, every other event keeps it. -/
theorem effect_errTruncated (ev : CycleEvent) (s : State) :
    (ev.effect s).errTruncated = (decide (ev ≠ .reset) && (s.errTruncated || decide (ev = .truncated))) := by
  cases ev <;> simp [CycleEvent.effect, errAfterTruncation]

/-- The output shows the fault bit as it was before the edge (log entry 4). -/
theorem effect_out_errTruncated (ev : CycleEvent) (s : State) :
    (ev.effect s).out.errTruncated = s.errTruncated := by
  cases ev <;> rfl

/-- No event reads the fault bit but to show it, keep it or overwrite it. -/
theorem effect_with_errTruncated (ev : CycleEvent) (s : State) (b : Bool) :
    ev.effect { s with errTruncated := b } =
      { ev.effect s with
        errTruncated := (ev.effect { s with errTruncated := b }).errTruncated
        out := { (ev.effect s).out with errTruncated := b } } := by
  cases ev <;> rfl

theorem errTruncated_of_step {s t : State} (h : step s = .next t) :
    t.errTruncated =
      (!(currentInput s).rst &&
        (s.errTruncated || ((currentInput s).inValid && s.phase == .low && (currentInput s).inLast))) := by
  rw [eq_effect_of_step h, effect_errTruncated, takeInput_errTruncated]
  rcases comingEvent_cases s with ⟨hr, he⟩ | ⟨hr, hv, he⟩ | ⟨⟨hr, hv⟩, hp, hl, he⟩ |
    ⟨⟨hr, hv⟩, hp, hl, he⟩ | ⟨⟨hr, hv⟩, hp, he⟩
  · simp [he, hr]
  · simp [he, hr, hv]
  · simp [he, hr, hl]
  · simp [he, hr, hv, hp, hl]
  · have hne : (Phase.high == Phase.low) = false := rfl
    simp [he, hr, hp, hne]

/-- Settles O41: each clause is what the coming event does to the bit, or leaves as it is. -/
theorem faultBit : Obligations.FaultBit := by
  refine ⟨rfl, fun s t h => errTruncated_of_step h, fun s t h => ?_, fun s t b h => ?_⟩
  · rw [eq_effect_of_step h, effect_out_errTruncated, takeInput_errTruncated]
  · rw [eq_effect_of_step h]
    exact ⟨_, step_eq_effect _, effect_with_errTruncated (comingEvent s) (takeInput s) b⟩

/-! ## The unread content of `lo` (spec/10_state.md R13, R17; 93_implementation_defined.md U3) -/

theorem sameButUnreadLo_iff {s s' : State} :
    SameButUnreadLo s s' ↔ ∃ b : Byte, s' = { s with lo := b } ∧ (s.phase = .high → b = s.lo) := by
  constructor
  · rintro ⟨hs, hlo⟩
    exact ⟨s'.lo, hs, hlo⟩
  · rintro ⟨b, rfl, hlo⟩
    exact ⟨rfl, hlo⟩

/-- The event reads `lo` only where a byte is held. -/
theorem comingEvent_eq_of_sameButUnreadLo {s s' : State} (h : SameButUnreadLo s s') :
    comingEvent s' = comingEvent s := by
  obtain ⟨b, rfl, hlo⟩ := sameButUnreadLo_iff.mp h
  change cycleEvent s.phase b (currentInput s) = cycleEvent s.phase s.lo (currentInput s)
  cases hp : s.phase with
  | low => rfl
  | high => rw [hlo hp]

/-- No event makes an unread difference in `lo` visible: reset and a low byte overwrite it, a completed word ends
with `phase` 0, and the others keep `phase` and `lo`. -/
theorem effect_sameButUnreadLo {s s' : State} (ev : CycleEvent) (h : SameButUnreadLo s s') :
    SameButUnreadLo (ev.effect s) (ev.effect s') := by
  obtain ⟨b, rfl, hlo⟩ := sameButUnreadLo_iff.mp h
  cases ev with
  | reset => exact ⟨rfl, fun _ => rfl⟩
  | idle => exact ⟨rfl, hlo⟩
  | lowByte _ => exact ⟨rfl, fun _ => rfl⟩
  | truncated => exact ⟨rfl, hlo⟩
  | word _ => exact ⟨rfl, fun hhigh => nomatch hhigh⟩

theorem takeInput_sameButUnreadLo {s s' : State} (h : SameButUnreadLo s s') :
    SameButUnreadLo (takeInput s) (takeInput s') := by
  obtain ⟨b, rfl, hlo⟩ := sameButUnreadLo_iff.mp h
  exact ⟨rfl, hlo⟩

/-- One step keeps the relation. -/
theorem step_sameButUnreadLo {s s' t : State} (h : SameButUnreadLo s s') (hstep : step s = .next t) :
    ∃ t', step s' = .next t' ∧ SameButUnreadLo t t' := by
  refine ⟨_, step_eq_effect s', ?_⟩
  rw [eq_effect_of_step hstep, comingEvent_eq_of_sameButUnreadLo h]
  exact effect_sameButUnreadLo _ (takeInput_sameButUnreadLo h)

/-- Settles O55, by induction on the length of the run. -/
theorem unreadLoIsNeverSeen : Obligations.UnreadLoIsNeverSeen := by
  intro n
  induction n with
  | zero =>
    intro s s' t h hrun
    obtain rfl : s = t := Host.Outcome.next.inj hrun
    exact ⟨s', run_zero s', h⟩
  | succ n ih =>
    intro s s' t h hrun
    have hs := step_eq_effect s
    obtain ⟨u', hs', hu⟩ := step_sameButUnreadLo h hs
    rw [run_succ_of_step hs] at hrun
    rw [run_succ_of_step hs']
    exact ih _ u' t hu hrun

/-! ## The state right after reset (spec/10_state.md R17) -/

/-- Settles O39: the fields of `State.reset`. -/
theorem stateAfterReset : Obligations.StateAfterReset := ⟨rfl, rfl, rfl⟩

/-- Settles O53: no record has been emitted, and the outputs are those of a cycle without one. -/
theorem invariantAtReset : Obligations.InvariantAtReset :=
  ⟨fun _ hr => absurd hr List.not_mem_nil, rfl⟩

end Sys2Proof.Machine

/-! # Memory: words, streams and the Word Assembler (spec/20_memory.md) -/

namespace Sys2Proof

/-- Assembling as the spec writes it: the high byte shifted over the low one (20_memory.md R20). -/
theorem wordOfBytes_eq_or (lo hi : Byte) :
    wordOfBytes lo hi = lo.setWidth 16 ||| hi.setWidth 16 <<< 8 := by
  rw [wordOfBytes, BitVec.append_def, BitVec.shiftLeftZeroExtend_eq, BitVec.or_comm]
  rfl

end Sys2Proof

namespace Sys2Proof.Machine

/-! ## When a record is presented (spec/20_memory.md R32) -/

theorem comingEvent_eq_word_iff {s : State} {w : Word} :
    comingEvent s = .word w ↔ CompletesWord s w := by
  refine ⟨fun h => ?_, comingEvent_of_completesWord⟩
  rcases comingEvent_cases s with ⟨-, he⟩ | ⟨-, -, he⟩ | ⟨-, -, -, he⟩ | ⟨-, -, -, he⟩ | ⟨ha, hp, he⟩
  case inr.inr.inr.inr => exact ⟨hp, ha, CycleEvent.word.inj (he.symm.trans h)⟩
  all_goals exact nomatch he.symm.trans h

/-- A completed word is the only event that presents a record. -/
theorem effect_outValid_iff (ev : CycleEvent) (s : State) :
    (ev.effect s).out.outValid = true ↔ ∃ w, ev = .word w := by
  cases ev with
  | word w => exact ⟨fun _ => ⟨w, rfl⟩, fun _ => rfl⟩
  | reset | idle | lowByte _ | truncated => simp [CycleEvent.effect, portsQuiet]

/-- Every other event leaves the record outputs 0 and emits nothing. -/
theorem effect_of_not_outValid {ev : CycleEvent} {s : State} (h : (ev.effect s).out.outValid = false) :
    (ev.effect s).out = noRecord s.errTruncated ∧ (ev.effect s).emitted = s.emitted := by
  cases ev with
  | word w => exact nomatch h
  | reset | idle | lowByte _ | truncated => exact ⟨rfl, rfl⟩

/-- Settles O36: the effect of the coming event presents a record exactly when the event is a completed word. -/
theorem recordPresentedExactlyWithHighByte : Obligations.RecordPresentedExactlyWithHighByte := by
  intro s t h
  obtain rfl := eq_effect_of_step h
  have hword : ((comingEvent s).effect (takeInput s)).out.outValid = true ↔ ∃ w, CompletesWord s w := by
    simp only [effect_outValid_iff, comingEvent_eq_word_iff]
  refine ⟨hword.trans ⟨?_, ?_⟩, effect_of_not_outValid, fun hv => ?_⟩
  · rintro ⟨_, hphase, haccepts, -⟩
    exact ⟨hphase, haccepts⟩
  · rintro ⟨hphase, haccepts⟩
    exact ⟨_, hphase, haccepts, rfl⟩
  · obtain ⟨w, hw⟩ := hword.mp hv
    have ⟨_, _, hbytes⟩ := hw
    subst hbytes
    rw [comingEvent_of_completesWord hw]
    exact ⟨rfl, rfl⟩

/-! ## The words of a byte sequence (spec/20_memory.md R20 to R22) -/

@[simp] theorem words_nil : words [] = [] := rfl

@[simp] theorem words_singleton (b : Byte) : words [b] = [] := rfl

@[simp] theorem words_cons_cons (lo hi : Byte) (rest : List Byte) :
    words (lo :: hi :: rest) = wordOfBytes lo hi :: words rest := rfl

theorem length_words : ∀ bytes : List Byte, (words bytes).length = bytes.length / 2
  | [] | [_] => by simp
  | _ :: _ :: rest => by simp only [words_cons_cons, List.length_cons, length_words rest]; omega

theorem words_append_of_even : ∀ {a : List Byte}, a.length % 2 = 0 → ∀ b : List Byte,
    words (a ++ b) = words a ++ words b
  | [], _, _ => rfl
  | [_], ha, _ => nomatch ha
  | lo :: hi :: rest, ha, b => by
    have hrest : rest.length % 2 = 0 := (Nat.add_mod_right rest.length 2).symm.trans ha
    simp only [List.cons_append, words_cons_cons, words_append_of_even hrest]

@[simp] theorem memReadWord_zero (lo hi : Byte) (rest : List Byte) :
    memReadWord (lo :: hi :: rest) 0 = some (wordOfBytes lo hi) :=
  congrArg some (wordOfBytes_eq_or lo hi).symm

@[simp] theorem memReadWord_add_two (lo hi : Byte) (rest : List Byte) (addr : Nat) :
    memReadWord (lo :: hi :: rest) (addr + 2) = memReadWord rest addr := rfl

/-- A read is defined exactly inside the image, and gives the word of its two bytes. -/
theorem memReadWord_eq_some_iff {bytes : List Byte} {addr : Nat} {w : Word} :
    memReadWord bytes addr = some w ↔
      bytes[addr]? = some (lowByte w) ∧ bytes[addr + 1]? = some (highByte w) := by
  unfold memReadWord
  constructor
  · intro h
    split at h
    case h_1 lo hi hlo hhi =>
      obtain rfl := (wordOfBytes_eq_or lo hi).trans (Option.some.inj h)
      rw [lowByte_wordOfBytes, highByte_wordOfBytes]
      exact ⟨hlo, hhi⟩
    case h_2 => exact nomatch h
  · rintro ⟨hlo, hhi⟩
    simp only [hlo, hhi, ← wordOfBytes_eq_or, wordOfBytes_low_high]

/-- A read depends on its two bytes alone. -/
theorem memReadWord_congr {bytes other : List Byte} {addr : Nat} (hlo : other[addr]? = bytes[addr]?)
    (hhi : other[addr + 1]? = bytes[addr + 1]?) : memReadWord other addr = memReadWord bytes addr := by
  simp only [memReadWord, hlo, hhi]

theorem getElem?_words : ∀ (bytes : List Byte) (i : Nat), (words bytes)[i]? = memReadWord bytes (2 * i)
  | [], _ => rfl
  | [_], 0 | [_], _ + 1 => rfl
  | lo :: hi :: rest, 0 => (memReadWord_zero lo hi rest).symm
  | _ :: _ :: rest, i + 1 => getElem?_words rest i

/-- Settles O47, by induction on the pairs of the byte sequence. -/
theorem wordsAreLittleEndianPairs : Obligations.WordsAreLittleEndianPairs := by
  intro bytes
  refine ⟨length_words bytes, getElem?_words bytes, fun i w h => ?_⟩
  rw [getElem?_words] at h
  exact memReadWord_eq_some_iff.mp h

/-! ## The records of a stream (spec/20_memory.md R22, R28, R29; 40_matcher_extractor.md R61) -/

theorem decodeStream_records (c : Config) (bytes : List Byte) :
    (decodeStream c bytes).1 = (words bytes).map (decodeRecord c.catalog) := rfl

theorem decodeStream_err (c : Config) (bytes : List Byte) :
    (decodeStream c bytes).2 = streamErr c.truncPolicy bytes.length := rfl

/-- Only the parity of a stream's length decides its error. -/
theorem streamErr_congr {p : TruncPolicy} {m n : Nat} (h : m % 2 = n % 2) :
    streamErr p m = streamErr p n := by
  simp only [streamErr, h]

theorem decodeStream_append_of_even (c : Config) {a : List Byte} (ha : a.length % 2 = 0) (b : List Byte) :
    decodeStream c (a ++ b) = ((decodeStream c a).1 ++ (decodeStream c b).1, (decodeStream c b).2) := by
  apply Prod.ext
  · simp only [decodeStream_records, words_append_of_even ha, List.map_append]
  · have hlen : (a ++ b).length % 2 = b.length % 2 := by
      rw [List.length_append]; omega
    exact streamErr_congr hlen

/-- Settles O50. -/
theorem streamsDecodePieceByPiece : Obligations.StreamsDecodePieceByPiece := by
  intro c a b ha
  rw [decodeStream_append_of_even c ha]
  exact ⟨rfl, rfl⟩

/-- Settles O48: the last byte is a piece of its own, without a word. -/
theorem oddLengthDropsTheLastByte : Obligations.OddLengthDropsTheLastByte := by
  intro bytes b heven
  have hlast (c : Config) : decodeStream c (bytes ++ [b]) =
      ((decodeStream c bytes).1, streamErr c.truncPolicy 1) := by
    rw [decodeStream_append_of_even c heven, decodeStream_records c [b], words_singleton, List.map_nil,
      List.append_nil]
    rfl
  exact ⟨hlast _, streamErr_congr (n := 0) heven, hlast _⟩

/-- Settles O49: record `i` is that of word `i`, which is read at `2i`. -/
theorem recordsInInputOrder : Obligations.RecordsInInputOrder := by
  intro bytes
  have hrecord (bytes : List Byte) (i : Nat) : (decodeStream Config.hardware bytes).1[i]? =
      (memReadWord bytes (2 * i)).map (decodeRecord catalog) := by
    rw [decodeStream_records, List.getElem?_map, getElem?_words]
    rfl
  refine ⟨?_, hrecord bytes, fun other i hlo hhi => ?_⟩
  · rw [decodeStream_records, List.length_map, length_words]
  · rw [hrecord, hrecord, memReadWord_congr hlo hhi]

/-! ## The Word Assembler step, case by case (spec/20_memory.md R33) -/

@[simp] theorem extractRecord_form (fmt : Format) (f : Form) (w : Word) : (extractRecord fmt f w).form = f := by
  cases fmt <;> rfl

@[simp] theorem decodeRecord_form (cat : List CatalogEntry) (w : Word) :
    (decodeRecord cat w).form = matchForm cat w := by
  unfold matchForm
  cases h : firstMatch cat w with
  | none => rw [decodeRecord_of_firstMatch_none h, recNone]
  | some e => rw [decodeRecord_of_firstMatch_some h, extractRecord_form]

theorem emit_eq_afterRecord (r : Record) (s : State) : emit r s = afterRecord (formCode r.form) r s := rfl

/-- What a high byte does before the record is emitted (R33). -/
theorem acceptHigh_takeInput (s : State) : acceptHigh (takeInput s) = wordTaken s := rfl

/-- The cycle that completes a word runs its decoding. -/
theorem step_eq_exec_of_completesWord {s : State} {w : Word} (h : CompletesWord s w) :
    step s = exec (decode w) (wordTaken s) := by
  rw [step_of_completesWord h, exec_decode, acceptHigh_takeInput]

/-- Settles O35: the inputs and the phase select the event, and its effect is the state R33 gives. -/
theorem wordAssemblerStep : Obligations.WordAssemblerStep := by
  intro s hrst
  refine ⟨fun hvalid => ?_, fun hvalid hphase hlast => ?_, fun hvalid hphase hlast => ?_,
    fun hvalid hphase w hw => ?_⟩
  · have hevent : comingEvent s = .idle := cycleEvent_of_not_valid hrst hvalid
    rw [step_eq_effect, hevent]
    rfl
  · have hevent : comingEvent s = .lowByte (currentInput s).inByte := by
      rw [comingEvent, hphase, cycleEvent_low hrst hvalid hlast]
    rw [step_eq_effect, hevent]
    rfl
  · have hevent : comingEvent s = .truncated := by
      rw [comingEvent, hphase, cycleEvent_low_last hrst hvalid hlast]
    rw [step_eq_effect, hevent]
    rfl
  · have hcompletes : CompletesWord s w :=
      ⟨hphase, ⟨hrst, hvalid⟩, (wordOfBytes_eq_or _ _).trans hw.symm⟩
    rw [step_eq_exec_of_completesWord hcompletes, exec_decode, emit_eq_afterRecord, decodeRecord_form]

end Sys2Proof.Machine

/-! # Decoding after encoding (spec/30_encoding.md R36, R38, R41; 40_matcher_extractor.md R49) -/

namespace Sys2Proof

/-! ### The one entry that accepts a word (R41) -/

/-- Two entries that differ ask for different bits under the masks of both. -/
theorem catalog_entries_conflict : ∀ e ∈ catalog, ∀ e' ∈ catalog,
    e.pattern &&& e.mask &&& e'.mask = e'.pattern &&& e'.mask &&& e.mask → e = e' := by
  decide

theorem eq_of_accepts_of_accepts {e e' : CatalogEntry} {w : Word} (he : e ∈ catalog) (he' : e' ∈ catalog)
    (h : e.accepts w = true) (h' : e'.accepts w = true) : e = e' := by
  apply catalog_entries_conflict e he e' he'
  rw [← and_mask_of_accepts h, ← and_mask_of_accepts h', BitVec.and_assoc, BitVec.and_assoc,
    BitVec.and_comm e.mask]

theorem firstMatch_eq_some_iff {w : Word} {e : CatalogEntry} :
    firstMatch catalog w = some e ↔ e ∈ catalog ∧ e.accepts w = true := by
  refine ⟨firstMatch_some, fun ⟨he, ha⟩ => ?_⟩
  cases h : firstMatch catalog w with
  | none => exact absurd ha (List.find?_eq_none.mp h e he)
  | some e' =>
    obtain ⟨he', ha'⟩ := firstMatch_some h
    rw [eq_of_accepts_of_accepts he' he ha' ha]

/-- The tests of R76 are those of the thirteen entries. -/
theorem firstMatch_eq_none_of_unmatched {w : Word} (h : Instr.unmatched w = true) :
    firstMatch catalog w = none := by
  simp only [Instr.unmatched, List.contains_cons, List.contains_nil, Bool.or_false, Bool.not_or,
    Bool.and_eq_true, bne_iff_ne, Bool.not_eq_true', beq_eq_false_iff_ne] at h
  obtain ⟨⟨⟨⟨⟨hnop, hclr, hmov, hcp⟩, hldi, hcpi⟩, hsbiw⟩, hldXinc, hldYinc, hldXdec, hinc, hdec⟩, hbrne⟩ := h
  apply List.find?_eq_none.mpr
  intro e he ha
  have hm := and_mask_of_accepts ha
  simp only [catalog, List.mem_cons, List.not_mem_nil, or_false] at he
  rcases he with rfl | rfl | rfl | rfl | rfl | rfl | rfl | rfl | rfl | rfl | rfl | rfl | rfl
  · exact hnop (BitVec.and_allOnes.symm.trans hm)
  · exact hclr hm
  · exact hldi hm
  · exact hcpi hm
  · exact hsbiw hm
  · exact hldXinc hm
  · exact hldYinc hm
  · exact hldXdec hm
  · exact hinc hm
  · exact hdec hm
  · exact hmov hm
  · exact hcp hm
  · exact hbrne hm

/-! ### The operands of a word written field by field (R36; 40_matcher_extractor.md R52 to R58) -/

theorem extractLsb'_second_field {m n l : Nat} (a : BitVec m) (b : BitVec n) (c : BitVec l) :
    (a ++ b ++ c).extractLsb' l n = b := by
  rw [BitVec.extractLsb'_append_eq_of_le (Nat.le_refl l), Nat.sub_self]
  exact BitVec.extractLsb'_append_eq_right

theorem extractLsb'_third_field {k m n l : Nat} (o : BitVec k) (a : BitVec m) (b : BitVec n) (c : BitVec l) :
    (o ++ a ++ b ++ c).extractLsb' (l + n) m = a := by
  rw [BitVec.extractLsb'_append_eq_of_le (Nat.le_add_right l n), Nat.add_sub_cancel_left]
  exact extractLsb'_second_field o a b

theorem extractLsb'_append_low {m n : Nat} (x : BitVec (m + n)) :
    x.extractLsb' n m ++ x.extractLsb' 0 n = x := by
  rw [BitVec.extractLsb'_append_extractLsb'_eq_extractLsb' (Nat.zero_add n).symm, BitVec.extractLsb'_eq_self]

theorem regD5_append (o : BitVec 6) (a : BitVec 1) (d : BitVec 5) (c : BitVec 4) :
    regD5 (o ++ a ++ d ++ c) = d :=
  extractLsb'_second_field (o ++ a) d c

theorem regD5_append_unary (o : BitVec 7) (d : BitVec 5) (c : BitVec 4) : regD5 (o ++ d ++ c) = d :=
  extractLsb'_second_field o d c

theorem regR5_append (o : BitVec 6) (a : BitVec 1) (d : BitVec 5) (c : BitVec 4) :
    regR5 (o ++ a ++ d ++ c) = a ++ c :=
  congrArg₂ (· ++ ·) (extractLsb'_third_field o a d c) BitVec.extractLsb'_append_eq_right

theorem clrIgnored_append (o : BitVec 6) (a : BitVec 1) (d : BitVec 5) (c : BitVec 4) :
    clrIgnored (o ++ a ++ d ++ c) = a ++ c :=
  regR5_append o a d c

theorem imm8_append (o kh d kl : BitVec 4) : imm8 (o ++ kh ++ d ++ kl) = kh ++ kl :=
  congrArg₂ (· ++ ·) (extractLsb'_third_field o kh d kl) BitVec.extractLsb'_append_eq_right

theorem regHi_append (o kh d kl : BitVec 4) : regHi (o ++ kh ++ d ++ kl) = 16#5 + d.setWidth 5 :=
  congrArg (16#5 + BitVec.setWidth 5 ·) (extractLsb'_second_field (o ++ kh) d kl)

theorem imm6_append (o : BitVec 8) (kh p : BitVec 2) (kl : BitVec 4) :
    imm6 (o ++ kh ++ p ++ kl) = (kh ++ kl).setWidth 8 :=
  congrArg₂ (fun (x : BitVec 2) (y : BitVec 4) => (x ++ y).setWidth 8)
    (extractLsb'_third_field o kh p kl) BitVec.extractLsb'_append_eq_right

theorem regPair_append (o : BitVec 8) (kh p : BitVec 2) (kl : BitVec 4) :
    regPair (o ++ kh ++ p ++ kl) = 24#5 + 2#5 * p.setWidth 5 :=
  congrArg (24#5 + 2#5 * BitVec.setWidth 5 ·) (extractLsb'_second_field (o ++ kh) p kl)

theorem rel7_append (o : BitVec 6) (x : BitVec 7) (sel : BitVec 3) :
    rel7 (o ++ x ++ sel) = x.signExtend 8 + 1#8 :=
  congrArg (BitVec.signExtend 8 · + 1#8) (extractLsb'_second_field o x sel)

/-! ### The operands that a form's encoding can hold (R54, R55, R57, R58) -/

theorem regHi_of_wf : ∀ rd : RegIndex, 16 ≤ rd.toNat → 16#5 + (rd.extractLsb' 0 4).setWidth 5 = rd := by
  decide

theorem regPair_of_wf : ∀ rd : RegIndex, [24#5, 26#5, 28#5, 30#5].contains rd = true →
    24#5 + 2#5 * (rd.extractLsb' 1 2).setWidth 5 = rd := by
  decide

theorem imm6_of_wf {k : Byte} (hk : k.toNat ≤ 63) :
    (k.extractLsb' 4 2 ++ k.extractLsb' 0 4).setWidth 8 = k := by
  rw [BitVec.extractLsb'_append_extractLsb'_eq_extractLsb' (by rfl)]
  apply BitVec.eq_of_toNat_eq
  simp only [BitVec.toNat_setWidth, BitVec.extractLsb'_toNat, Nat.shiftRight_zero]
  omega

theorem rel7_of_wf : ∀ off : Byte, -63 ≤ off.toInt → off.toInt ≤ 64 →
    ((off - 1#8).extractLsb' 0 7).signExtend 8 + 1#8 = off := by
  decide

theorem extractInstr_encode {i : Instr} (h : i.wf = true) : extractInstr i.form (encode i) = i := by
  cases i with
  | nop | unknown _ => rfl
  | clr rd x =>
    simp only [Instr.form, extractInstr, encode, clrIgnored_append, regD5_append, extractLsb'_append_low]
  | ldi rd k | cpi rd k =>
    have hrd := regHi_of_wf rd (of_decide_eq_true h)
    simp only [Instr.form, extractInstr, encode, regHi_append, imm8_append, hrd, extractLsb'_append_low]
  | sbiw rd k =>
    obtain ⟨hrd, hk⟩ := Bool.and_eq_true_iff.mp h
    simp only [Instr.form, extractInstr, encode, regPair_append, imm6_append, regPair_of_wf rd hrd,
      imm6_of_wf (of_decide_eq_true hk)]
  | ldXinc rd | ldYinc rd | ldXdec rd | inc rd | dec rd =>
    simp only [Instr.form, extractInstr, encode, regD5_append_unary]
  | mov rd rr | cp rd rr =>
    simp only [Instr.form, extractInstr, encode, regD5_append, regR5_append, extractLsb'_append_low]
  | brne off =>
    obtain ⟨hlow, hhigh⟩ := Bool.and_eq_true_iff.mp h
    simp only [Instr.form, extractInstr, encode, rel7_append,
      rel7_of_wf off (of_decide_eq_true hlow) (of_decide_eq_true hhigh)]

/-! ### Encoding keeps the form, and decoding gives the instruction back -/

/-- The facts of Sys2Proof/Laws/PerInstr.lean as one statement over all instructions. -/
theorem encodingMatches (i : Instr) : Laws.EncodingMatches.Statement i := by
  cases i with
  | nop => exact Laws.EncodingMatches.nop
  | clr rd x => exact Laws.EncodingMatches.clr rd x
  | ldi rd k => exact Laws.EncodingMatches.ldi rd k
  | cpi rd k => exact Laws.EncodingMatches.cpi rd k
  | sbiw rd k => exact Laws.EncodingMatches.sbiw rd k
  | ldXinc rd => exact Laws.EncodingMatches.ldXinc rd
  | ldYinc rd => exact Laws.EncodingMatches.ldYinc rd
  | ldXdec rd => exact Laws.EncodingMatches.ldXdec rd
  | inc rd => exact Laws.EncodingMatches.inc rd
  | dec rd => exact Laws.EncodingMatches.dec rd
  | mov rd rr => exact Laws.EncodingMatches.mov rd rr
  | cp rd rr => exact Laws.EncodingMatches.cp rd rr
  | brne off => exact Laws.EncodingMatches.brne off
  | unknown raw => exact Laws.EncodingMatches.unknown raw

/-- Every form but UNKNOWN has its entry (R38). -/
theorem exists_entry_of_form (f : Form) : f = .unknown ∨ ∃ e ∈ catalog, e.form = f := by
  cases f <;> decide

theorem matchForm_encode {i : Instr} (h : i.wf = true) : matchForm catalog (encode i) = i.form := by
  unfold matchForm
  rcases exists_entry_of_form i.form with hf | ⟨e, he, hf⟩
  · cases i with
    | unknown raw => rw [encode, firstMatch_eq_none_of_unmatched h, Instr.form]
    | _ => exact nomatch hf
  · rw [firstMatch_eq_some_iff.mpr ⟨he, encodingMatches i h e he hf⟩, ← hf]

theorem decode_encode {i : Instr} (h : i.wf = true) : decode (encode i) = i := by
  rw [decode, matchForm_encode h, extractInstr_encode h]

end Sys2Proof

namespace Sys2Proof.Machine

/-! ## A step runs the decoded instruction (spec/20_memory.md R33, 40_matcher_extractor.md R49) -/

theorem decodeTableWord_toNat (w : Word) : decodeTableWord 16 w.toNat = some (decode w) := by
  simp only [decodeTableWord, tableBytes_toNat, decodeBytes, wordOfBytes_low_high]

/-- A word placed for the host is the word the coming cycle completes (log entry 13). -/
theorem completesWord_withFetchWord (s : State) (w : Word) :
    CompletesWord (s.withFetchWord 16 w.toNat) w := by
  rw [withFetchWord_toNat]
  exact ⟨rfl, ⟨rfl, rfl⟩, wordOfBytes_low_high w⟩

theorem wordTaken_withFetchWord (s : State) (w : Word) :
    wordTaken (s.withFetchWord 16 w.toNat) = { s with phase := .low, lo := lowByte w } := by
  rw [withFetchWord_toNat]
  rfl

/-- Settles O34: a completed word runs its decoding, and the encoding of a well-formed instruction decodes to it. -/
theorem stepRunsTheDecodedInstruction : Obligations.StepRunsTheDecodedInstruction := by
  refine ⟨fun s i hwf h => ?_, fun s w => ?_⟩
  · rw [step_eq_exec_of_completesWord h, decode_encode hwf]
  · have h := completesWord_withFetchWord s w
    refine ⟨h, decodeTableWord_toNat w, ?_⟩
    rw [step_eq_exec_of_completesWord h, wordTaken_withFetchWord, lowByte]

end Sys2Proof.Machine

/-! # The encoding as a whole: every operand, every word, every order of the entries (spec/30_encoding.md) -/

namespace Sys2Proof

/-- Settles O1: the encoded word has the instruction's form, and the extractor reads back each operand. -/
theorem decodeOfEncodeIsIdentity : Obligations.DecodeOfEncodeIsIdentity := fun _ h => decode_encode h

/-- Settles O3, by running the decoder on each of the fourteen words. -/
theorem writtenWordsDecode : Obligations.WrittenWordsDecode := by
  unfold Obligations.WrittenWordsDecode
  decide

/-! ## The entry of a form (R38, R41) -/

/-- No pattern has a bit outside its mask, so the mask on the pattern side of R37 is idle in this catalog. -/
theorem pattern_and_mask : ∀ e ∈ catalog, e.pattern &&& e.mask = e.pattern := by decide

theorem accepts_iff_of_mem {e : CatalogEntry} (he : e ∈ catalog) (w : Word) :
    e.accepts w = true ↔ w &&& e.mask = e.pattern := by
  rw [CatalogEntry.accepts, beq_iff_eq, pattern_and_mask e he]

theorem eq_of_form_eq : ∀ e ∈ catalog, ∀ e' ∈ catalog, e.form = e'.form → e = e' := by decide

theorem form_ne_unknown : ∀ e ∈ catalog, e.form ≠ .unknown := by decide

theorem firstMatch_eq_none_iff {cat : List CatalogEntry} {w : Word} :
    firstMatch cat w = none ↔ ∀ e ∈ cat, ¬ e.accepts w = true :=
  List.find?_eq_none

/-- A word has an entry's form exactly when that entry matches it: no earlier entry takes the word. -/
theorem matchForm_eq_form_iff {e : CatalogEntry} (he : e ∈ catalog) (w : Word) :
    matchForm catalog w = e.form ↔ e.accepts w = true := by
  unfold matchForm
  cases h : firstMatch catalog w with
  | none =>
    exact iff_of_false (form_ne_unknown e he).symm (firstMatch_eq_none_iff.mp h e he)
  | some e' =>
    obtain ⟨he', ha'⟩ := firstMatch_some h
    constructor
    · intro hf
      exact eq_of_form_eq e' he' e he hf ▸ ha'
    · intro ha
      rw [eq_of_accepts_of_accepts he' he ha' ha]

/-! ## The order of the entries (R41) -/

/-- At most one entry of a reordered catalog accepts a word, so the scan finds the same one in any order. -/
theorem firstMatch_of_perm {cat : List CatalogEntry} (hp : cat.Perm catalog) (w : Word) :
    firstMatch cat w = firstMatch catalog w := by
  cases h : firstMatch cat w with
  | none =>
    exact (firstMatch_eq_none_iff.mpr fun e he => firstMatch_eq_none_iff.mp h e (hp.mem_iff.mpr he)).symm
  | some e =>
    obtain ⟨he, ha⟩ := firstMatch_some h
    exact (firstMatch_eq_some_iff.mpr ⟨hp.mem_iff.mp he, ha⟩).symm

theorem length_filter_matches_le_one (w : Word) :
    (catalog.filter fun e => w &&& e.mask == e.pattern).length ≤ 1 := by
  have hnodup : (catalog.filter fun e => w &&& e.mask == e.pattern).Nodup :=
    List.Nodup.filter _ (by decide)
  rw [← List.toFinset_card_of_nodup hnodup, Finset.card_le_one]
  intro e he e' he'
  simp only [List.mem_toFinset, List.mem_filter, beq_iff_eq] at he he'
  obtain ⟨hmem, hw⟩ := he
  obtain ⟨hmem', hw'⟩ := he'
  exact eq_of_accepts_of_accepts hmem hmem' ((accepts_iff_of_mem hmem w).mpr hw)
    ((accepts_iff_of_mem hmem' w).mpr hw')

end Sys2Proof

namespace Sys2Proof.Machine

/-- Settles O5: entries that both match are equal, and the scan finds the one that matches in any order. -/
theorem entriesExclusiveInAnyOrder : Obligations.EntriesExclusiveInAnyOrder := by
  refine ⟨length_filter_matches_le_one, fun cat hp w => ?_⟩
  simp only [matchForm, decodeRecord, firstMatch_of_perm hp, and_self]

/-! ## Pattern bits outside the mask (R46) -/

theorem decodeRecord_cons (e : CatalogEntry) (cat : List CatalogEntry) (w : Word) :
    decodeRecord (e :: cat) w = if e.accepts w then extractRecord e.format e.form w else decodeRecord cat w := by
  unfold decodeRecord firstMatch
  rw [List.find?_cons]
  cases e.accepts w <;> rfl

theorem decodeRecord_append_congr (before : List CatalogEntry) {cat cat' : List CatalogEntry} {w : Word}
    (h : decodeRecord cat w = decodeRecord cat' w) :
    decodeRecord (before ++ cat) w = decodeRecord (before ++ cat') w := by
  induction before with
  | nil => exact h
  | cons e before ih => rw [List.cons_append, List.cons_append, decodeRecord_cons, decodeRecord_cons, ih]

/-- The match predicate sees the pattern only under the mask. -/
theorem accepts_with_pattern {e : CatalogEntry} {p : Word} (h : p &&& e.mask = e.pattern &&& e.mask) (w : Word) :
    { e with pattern := p }.accepts w = e.accepts w := by
  simp only [CatalogEntry.accepts, h]

/-- Settles O7: the entry accepts the same words, so the record stays; the form is a field of the record. -/
theorem patternBitsOutsideMaskIrrelevant : Obligations.PatternBitsOutsideMaskIrrelevant := by
  intro before after e p hp w
  have hrecord : decodeRecord (before ++ { e with pattern := p } :: after) w =
      decodeRecord (before ++ e :: after) w := by
    apply decodeRecord_append_congr
    rw [decodeRecord_cons, decodeRecord_cons, accepts_with_pattern hp]
  refine ⟨?_, hrecord⟩
  rw [← decodeRecord_form, ← decodeRecord_form, hrecord]

/-! ## The number of words of each form (R42) -/

/-- The number of bits a mask leaves free. -/
def freeBits {n : Nat} (m : BitVec n) : Nat := (Finset.univ.filter fun i : Fin n => m.getLsb i = false).card

/-- The values a bit may have: both where the mask is 0, the pattern's where it is 1. -/
theorem card_filter_and_eq (mi pi : Bool) :
    (Finset.univ.filter fun b : Bool => (b && mi) = (pi && mi)).card = if mi = false then 2 else 1 := by
  cases mi <;> cases pi <;> decide

/-- The words that agree with a pattern under a mask, as their bits: each mask bit is given, each other bit free. -/
def agreeingBits {n : Nat} (m p : BitVec n) : Finset (Fin n → Bool) :=
  Fintype.piFinset fun i => Finset.univ.filter fun b : Bool => (b && m.getLsb i) = (p.getLsb i && m.getLsb i)

theorem card_agreeingBits {n : Nat} (m p : BitVec n) : (agreeingBits m p).card = 2 ^ freeBits m := by
  rw [agreeingBits, Fintype.card_piFinset]
  simp only [card_filter_and_eq, Finset.prod_ite, Finset.prod_const, one_pow, mul_one, freeBits]

theorem and_eq_and_iff_getLsb_mem {n : Nat} {w m p : BitVec n} :
    w &&& m = p &&& m ↔ w.getLsb ∈ agreeingBits m p := by
  have hbit (v : BitVec n) (i : Fin n) : (v.getLsb i && m.getLsb i) = (v &&& m).getLsb i :=
    (BitVec.getElem_and (i := i) i.isLt).symm
  simp only [agreeingBits, Fintype.mem_piFinset, Finset.mem_filter_univ, hbit]
  exact ⟨fun h i => by rw [h], fun h => BitVec.eq_of_getElem_eq fun i hi => h ⟨i, hi⟩⟩

theorem ofFnLE_getLsb {n : Nat} (w : BitVec n) : BitVec.ofFnLE w.getLsb = w :=
  BitVec.eq_of_getElem_eq fun i hi => BitVec.getElem_ofFnLE w.getLsb i hi

theorem getLsb_ofFnLE_eq {n : Nat} (f : Fin n → Bool) : (BitVec.ofFnLE f).getLsb = f :=
  funext (BitVec.getLsb_ofFnLE f)

/-- Each bit a mask leaves free doubles the number of words that agree with a pattern under it (R42). -/
theorem count_and_eq {n : Nat} (m p : BitVec n) :
    Nat.count (fun k => BitVec.ofNat n k &&& m = p &&& m) (2 ^ n) = 2 ^ freeBits m := by
  rw [← card_agreeingBits m p, Nat.count_eq_card_filter_range]
  simp only [and_eq_and_iff_getLsb_mem]
  refine Finset.card_bij' (fun k _ => (BitVec.ofNat n k).getLsb) (fun f _ => (BitVec.ofFnLE f).toNat)
    (fun k hk => (Finset.mem_filter.mp hk).2) (fun f hf => ?_) (fun k hk => ?_) (fun f hf => ?_)
  · rw [Finset.mem_filter, Finset.mem_range, BitVec.ofNat_toNat, BitVec.setWidth_eq, getLsb_ofFnLE_eq]
    exact ⟨BitVec.isLt _, hf⟩
  · rw [ofFnLE_getLsb, BitVec.toNat_ofNat]
    exact Nat.mod_eq_of_lt (Finset.mem_range.mp (Finset.mem_filter.mp hk).1)
  · rw [BitVec.ofNat_toNat, BitVec.setWidth_eq, getLsb_ofFnLE_eq]

theorem wordCount_eq_count (f : Form) :
    wordCount f = Nat.count (fun n => matchForm catalog (BitVec.ofNat 16 n) = f) (2 ^ 16) := by
  simp only [wordCount, Nat.count, beq_eq_decide, Nat.reducePow]

/-- R42: `2^(16 - number of mask bits)` words per entry. -/
theorem wordCount_of_mem {e : CatalogEntry} (he : e ∈ catalog) : wordCount e.form = 2 ^ freeBits e.mask := by
  rw [wordCount_eq_count, ← count_and_eq e.mask e.pattern]
  simp only [matchForm_eq_form_iff he, CatalogEntry.accepts, beq_iff_eq]

theorem freeBits_masks :
    freeBits 0xFFFF#16 = 0 ∧ freeBits 0xFC00#16 = 10 ∧ freeBits 0xF000#16 = 12 ∧ freeBits 0xFF00#16 = 8 ∧
      freeBits 0xFE0F#16 = 5 ∧ freeBits 0xFC07#16 = 7 := by
  decide

/-- All forms: UNKNOWN and those of the entries. -/
def forms : Finset Form := insert .unknown (catalog.map (·.form)).toFinset

theorem mem_forms (f : Form) : f ∈ forms := by
  rw [forms, Finset.mem_insert, List.mem_toFinset, List.mem_map]
  exact exists_entry_of_form f

theorem sum_forms (g : Form → Nat) : ∑ f ∈ forms, g f = g .unknown + (catalog.map fun e => g e.form).sum := by
  rw [forms, Finset.sum_insert (by decide), List.sum_toFinset _ (by decide), List.map_map]
  rfl

/-- Every word has exactly one form. -/
theorem sum_wordCount : ∑ f ∈ forms, wordCount f = 2 ^ 16 := by
  simp only [wordCount_eq_count, Nat.count_eq_card_filter_range]
  rw [← Finset.card_eq_sum_card_fiberwise fun n _ => mem_forms _, Finset.card_range]

/-- UNKNOWN has the words that the entries leave (R43). -/
theorem wordCount_unknown : wordCount .unknown = 53727 := by
  have hsum : wordCount .unknown + (catalog.map fun e => 2 ^ freeBits e.mask).sum = 2 ^ 16 := by
    rw [← List.map_congr_left fun e => wordCount_of_mem, ← sum_forms, sum_wordCount]
  simp only [catalog, List.map_cons, List.map_nil, List.sum_cons, List.sum_nil, freeBits_masks] at hsum
  generalize wordCount .unknown = n at hsum ⊢
  omega

/-- Settles O6: an entry's form has the words its free bits allow, and UNKNOWN has the others. -/
theorem wordsPerForm : Obligations.WordsPerForm := by
  have h : ∀ e ∈ catalog, wordCount e.form = 2 ^ freeBits e.mask := fun _ => wordCount_of_mem
  simp only [catalog, List.forall_mem_cons, freeBits_masks, Nat.reducePow] at h
  obtain ⟨hnop, hclr, hldi, hcpi, hsbiw, hldXinc, hldYinc, hldXdec, hinc, hdec, hmov, hcp, hbrne, -⟩ := h
  exact ⟨hnop, hclr, hldi, hcpi, hsbiw, hldXinc, hldYinc, hldXdec, hinc, hdec, hmov, hcp, hbrne,
    wordCount_unknown⟩

end Sys2Proof.Machine

/-! # The Instruction Matcher and the Field Extractor (spec/40_matcher_extractor.md) -/

namespace Sys2Proof

/-! ## The scan of the catalog, entry by entry (R48) -/

theorem matchForm_nil (w : Word) : matchForm [] w = .unknown := rfl

theorem matchForm_cons (e : CatalogEntry) (cat : List CatalogEntry) (w : Word) :
    matchForm (e :: cat) w = if w &&& e.mask = e.pattern &&& e.mask then e.form else matchForm cat w := by
  unfold matchForm firstMatch
  rw [List.find?_cons, CatalogEntry.accepts, beq_eq_decide]
  split_ifs with h
  · rw [decide_eq_true h]
  · rw [decide_eq_false h]

/-- NOP's mask covers the whole word. -/
theorem and_FFFF (w : Word) : w &&& 0xFFFF#16 = w := BitVec.and_allOnes

/-- Settles O4: the scan tests one entry after the other, and no pattern has a bit outside its mask. -/
theorem matchIsTheWrittenChain : Obligations.MatchIsTheWrittenChain := by
  intro w
  simp only [catalog, matchForm_cons, matchForm_nil, and_FFFF, BitVec.reduceAnd]

/-! ## Every word decodes to a well-formed instruction (R51, R59) -/

theorem le_toNat_regHi (w : Word) : 16 ≤ (regHi w).toNat := by
  have h : ∀ x : BitVec 4, 16 ≤ (16#5 + x.setWidth 5).toNat := by decide
  exact h _

theorem contains_regPair (w : Word) : [24#5, 26#5, 28#5, 30#5].contains (regPair w) = true := by
  have h : ∀ x : BitVec 2, [24#5, 26#5, 28#5, 30#5].contains (24#5 + 2#5 * x.setWidth 5) = true := by decide
  exact h _

theorem toNat_imm6_le (w : Word) : (imm6 w).toNat ≤ 63 := by
  rw [imm6, BitVec.toNat_setWidth_of_le (by decide)]
  exact Nat.le_of_lt_succ (BitVec.isLt _)

/-- The branch offset is the signed 7-bit field plus one, over the integers (R58). -/
theorem toInt_rel7 (w : Word) : (rel7 w).toInt = (w.extractLsb' 3 7).toInt + 1 := by
  have h : ∀ x : BitVec 7, (x.signExtend 8 + 1#8).toInt = x.toInt + 1 := by decide
  exact h _

theorem le_toInt_rel7 (w : Word) : -63 ≤ (rel7 w).toInt := by
  have h := BitVec.le_toInt (w.extractLsb' 3 7)
  rw [toInt_rel7]
  omega

theorem toInt_rel7_le (w : Word) : (rel7 w).toInt ≤ 64 := by
  have h := BitVec.toInt_lt (x := w.extractLsb' 3 7)
  rw [toInt_rel7]
  omega

/-- A word that the scan leaves unmatched passes none of the tests of R76. -/
theorem unmatched_of_firstMatch_none {w : Word} (h : firstMatch catalog w = none) :
    Instr.unmatched w = true := by
  have htests : ∀ e ∈ catalog, w &&& e.mask ≠ e.pattern := fun e he =>
    mt (accepts_iff_of_mem he w).mpr (firstMatch_eq_none_iff.mp h e he)
  simp only [catalog, List.forall_mem_cons, and_FFFF] at htests
  obtain ⟨hnop, hclr, hldi, hcpi, hsbiw, hldXinc, hldYinc, hldXdec, hinc, hdec, hmov, hcp, hbrne, -⟩ := htests
  simp only [Instr.unmatched, List.contains_cons, List.contains_nil, Bool.or_false, Bool.not_or,
    Bool.and_eq_true, bne_iff_ne, Bool.not_eq_true', beq_eq_false_iff_ne]
  exact ⟨⟨⟨⟨⟨hnop, hclr, hmov, hcp⟩, hldi, hcpi⟩, hsbiw⟩, hldXinc, hldYinc, hldXdec, hinc, hdec⟩, hbrne⟩

/-- The extracted operands are in the ranges of their forms, whatever the word is. -/
theorem wf_extractInstr {f : Form} (hf : f ≠ .unknown) (w : Word) : (extractInstr f w).wf = true := by
  cases f with
  | unknown => exact absurd rfl hf
  | nop | clr | ldXinc | ldYinc | ldXdec | inc | dec | mov | cp => rfl
  | ldi | cpi => exact decide_eq_true (le_toNat_regHi w)
  | sbiw => exact Bool.and_eq_true_iff.mpr ⟨contains_regPair w, decide_eq_true (toNat_imm6_le w)⟩
  | brne =>
    exact Bool.and_eq_true_iff.mpr ⟨decide_eq_true (le_toInt_rel7 w), decide_eq_true (toInt_rel7_le w)⟩

theorem wf_decode (w : Word) : (decode w).wf = true := by
  cases h : firstMatch catalog w with
  | none =>
    rw [decode_of_firstMatch_none h]
    exact unmatched_of_firstMatch_none h
  | some e =>
    rw [decode_of_firstMatch_some h]
    exact wf_extractInstr (form_ne_unknown e (firstMatch_some h).1) w

/-- Settles O2: a matched word's operands lie in the ranges of its form, and an unmatched word is kept whole. -/
theorem encodeOfDecodeIsIdentity : Obligations.EncodeOfDecodeIsIdentity :=
  fun w => ⟨wf_decode w, encode_decode w⟩

/-! ## The operand primitives as masks and shifts (R52 to R57) -/

/-- A field of `n` bits, moved up by `k`, is the word shifted down by the rest of the way and masked. -/
theorem setWidth_extractLsb'_shiftLeft (w : Word) (s n k : Nat) :
    (w.extractLsb' (s + k) n).setWidth 16 <<< k = (w >>> s) &&& ((BitVec.allOnes n).setWidth 16 <<< k) := by
  ext i hi
  simp only [BitVec.getElem_shiftLeft, BitVec.getElem_setWidth, BitVec.getElem_and, BitVec.getElem_ushiftRight,
    BitVec.getLsbD_extractLsb', BitVec.getLsbD_allOnes]
  by_cases hk : i < k
  · simp [hk]
  · have hpos : s + k + (i - k) = s + i := by omega
    simp [hk, hpos, Bool.and_comm]

/-- A field of `n` bits is the word shifted down and masked. -/
theorem setWidth_extractLsb' (w : Word) (s n : Nat) :
    (w.extractLsb' s n).setWidth 16 = (w >>> s) &&& (BitVec.allOnes n).setWidth 16 := by
  have h := setWidth_extractLsb'_shiftLeft w s n 0
  rwa [Nat.add_zero, BitVec.shiftLeft_zero, BitVec.shiftLeft_zero] at h

theorem setWidth_regD5 (w : Word) : (regD5 w).setWidth 16 = (w >>> 4) &&& 0x1F#16 :=
  setWidth_extractLsb' w 4 5

theorem setWidth_regR5 (w : Word) :
    (regR5 w).setWidth 16 = ((w >>> 5) &&& 0x10#16) ||| (w &&& 0x0F#16) := by
  rw [regR5, BitVec.setWidth_append_eq_shiftLeft_setWidth_or]
  exact congrArg₂ (· ||| ·) (setWidth_extractLsb'_shiftLeft w 5 1 4) (setWidth_extractLsb' w 0 4)

theorem setWidth_imm8 (w : Word) :
    (imm8 w).setWidth 16 = ((w >>> 4) &&& 0xF0#16) ||| (w &&& 0x0F#16) := by
  rw [imm8, BitVec.setWidth_append_eq_shiftLeft_setWidth_or]
  exact congrArg₂ (· ||| ·) (setWidth_extractLsb'_shiftLeft w 4 4 4) (setWidth_extractLsb' w 0 4)

theorem setWidth_imm6 (w : Word) :
    (imm6 w).setWidth 16 = ((w >>> 2) &&& 0x30#16) ||| (w &&& 0x0F#16) := by
  rw [imm6, BitVec.setWidth_setWidth (by decide), BitVec.setWidth_append_eq_shiftLeft_setWidth_or]
  exact congrArg₂ (· ||| ·) (setWidth_extractLsb'_shiftLeft w 2 2 4) (setWidth_extractLsb' w 0 4)

theorem setWidth_regHi_eq_add (w : Word) :
    (regHi w).setWidth 16 = ((w >>> 4) &&& 0x0F#16) + 16#16 := by
  have h : ∀ x : BitVec 4, (16#5 + x.setWidth 5).setWidth 16 = x.setWidth 16 + 16#16 := by decide
  exact (h _).trans (congrArg (· + 16#16) (setWidth_extractLsb' w 4 4))

theorem setWidth_regHi_eq_or (w : Word) :
    (regHi w).setWidth 16 = ((w >>> 4) &&& 0x0F#16) ||| 0x10#16 := by
  have h : ∀ x : BitVec 4, (16#5 + x.setWidth 5).setWidth 16 = x.setWidth 16 ||| 0x10#16 := by decide
  exact (h _).trans (congrArg (· ||| 0x10#16) (setWidth_extractLsb' w 4 4))

theorem setWidth_regPair (w : Word) :
    (regPair w).setWidth 16 = (((w >>> 4) &&& 0x03#16) <<< 1) + 24#16 := by
  have h : ∀ x : BitVec 2, (24#5 + 2#5 * x.setWidth 5).setWidth 16 = x.setWidth 16 <<< 1 + 24#16 := by decide
  exact (h _).trans (congrArg (fun x : Word => x <<< 1 + 24#16) (setWidth_extractLsb' w 4 2))

/-- Settles O8: each field of the word is a shift and a mask, and two fields side by side are an or. -/
theorem primitivesAreMasksAndShifts : Obligations.PrimitivesAreMasksAndShifts := fun w =>
  ⟨setWidth_regD5 w, setWidth_regR5 w, setWidth_regHi_eq_add w, setWidth_regHi_eq_or w, setWidth_regPair w,
    setWidth_imm8 w, setWidth_imm6 w⟩

/-! ## The exact numbers of the operands (R58, R62) -/

/-- A field, as the spec writes it with its highest and lowest bit, is the number of the bits it takes. -/
theorem toNat_extractLsb'_eq_bits (w : Word) (lo n : Nat) :
    (w.extractLsb' lo (n + 1)).toNat = Machine.bits w (lo + n) lo := by
  rw [BitVec.extractLsb'_toNat, Nat.shiftRight_eq_div_pow, Machine.bits, Nat.add_sub_cancel_left]

/-- Two fields side by side have the sum of their numbers, the left one at its weight. -/
theorem toNat_append_eq_add {m n : Nat} (x : BitVec m) (y : BitVec n) :
    (x ++ y).toNat = 2 ^ n * x.toNat + y.toNat := by
  rw [BitVec.toNat_append, Nat.two_pow_add_eq_or_of_lt y.isLt, Nat.shiftLeft_eq, Nat.mul_comm]

theorem toNat_regD5 (w : Word) : (regD5 w).toNat = Machine.bits w 8 4 := toNat_extractLsb'_eq_bits w 4 4

theorem toNat_regR5 (w : Word) : (regR5 w).toNat = 16 * Machine.bits w 9 9 + Machine.bits w 3 0 :=
  (toNat_append_eq_add _ _).trans
    (congrArg₂ (16 * · + ·) (toNat_extractLsb'_eq_bits w 9 0) (toNat_extractLsb'_eq_bits w 0 3))

theorem toNat_imm8 (w : Word) : (imm8 w).toNat = 16 * Machine.bits w 11 8 + Machine.bits w 3 0 :=
  (toNat_append_eq_add _ _).trans
    (congrArg₂ (16 * · + ·) (toNat_extractLsb'_eq_bits w 8 3) (toNat_extractLsb'_eq_bits w 0 3))

theorem toNat_imm6 (w : Word) : (imm6 w).toNat = 16 * Machine.bits w 7 6 + Machine.bits w 3 0 := by
  rw [imm6, BitVec.toNat_setWidth_of_le (by decide), toNat_append_eq_add]
  exact congrArg₂ (16 * · + ·) (toNat_extractLsb'_eq_bits w 6 1) (toNat_extractLsb'_eq_bits w 0 3)

theorem toNat_regHi (w : Word) : (regHi w).toNat = 16 + Machine.bits w 7 4 := by
  have h : ∀ x : BitVec 4, (16#5 + x.setWidth 5).toNat = 16 + x.toNat := by decide
  rw [regHi, h, toNat_extractLsb'_eq_bits]

theorem toNat_regPair (w : Word) : (regPair w).toNat = 24 + 2 * Machine.bits w 5 4 := by
  have h : ∀ x : BitVec 2, (24#5 + 2#5 * x.setWidth 5).toNat = 24 + 2 * x.toNat := by decide
  rw [regPair, h, toNat_extractLsb'_eq_bits]

/-- `w[9]` is the sign of the field `w[9:3]`. -/
theorem toInt_extractLsb'_eq_ite_bits (w : Word) : (w.extractLsb' 3 7).toInt =
    if Machine.bits w 9 9 = 1 then (Machine.bits w 9 3 : Int) - 128 else (Machine.bits w 9 3 : Int) := by
  have hsign : Machine.bits w 9 9 = Machine.bits w 9 3 / 64 := by
    simp only [Machine.bits]
    omega
  have h : ∀ x : BitVec 7, x.toInt = if x.toNat / 64 = 1 then (x.toNat : Int) - 128 else (x.toNat : Int) := by
    decide
  rw [h, hsign, toNat_extractLsb'_eq_bits]

/-- Only -128 has no negative in a byte. -/
theorem toNat_neg_of_toInt_neg {b : Byte} (hneg : b.toInt < 0) (hb : -128 < b.toInt) :
    ((-b).toNat : Int) = -b.toInt := by
  revert b
  decide

/-- Settles O10: every field sum fits its width, and the offset is never -128. -/
theorem operandArithmeticNeverWraps : Obligations.OperandArithmeticNeverWraps := by
  intro w
  refine ⟨toNat_regD5 w, toNat_regR5 w, toNat_regHi w, toNat_regPair w, toNat_imm8 w, toNat_imm6 w, ?_,
    fun hneg => toNat_neg_of_toInt_neg hneg ?_⟩
  · rw [toInt_rel7, toInt_extractLsb'_eq_ite_bits]
  · have hlow := le_toInt_rel7 w
    omega

/-! ## The branch offset step by step (R58) -/

/-- Up by one and arithmetically down by one copies the sign bit of the 7-bit field. -/
theorem sshiftRight_shiftLeft_one : ∀ k : BitVec 7, (k.setWidth 8 <<< 1).sshiftRight 1 = k.signExtend 8 := by
  decide

/-- The field's value is all that `rel7` reads of the word. -/
theorem rel7_of_bits {w : Word} {n : Nat} (h : Machine.bits w 9 3 = n) :
    rel7 w = (BitVec.ofNat 7 n).signExtend 8 + 1#8 := by
  rw [← h, ← toNat_extractLsb'_eq_bits w 3 6, BitVec.ofNat_toNat, BitVec.setWidth_eq, rel7]

/-- Settles O9: the shifted field is the signed field, whose value plus one fits a byte; the corner rows compute. -/
theorem branchOffsetBySteps : Obligations.BranchOffsetBySteps := by
  refine ⟨fun w => ?_, fun w => ?_⟩
  · intro k t s
    have hs : s = k.signExtend 8 := sshiftRight_shiftLeft_one k
    have hvalue : s.toInt = k.toInt := by rw [hs, BitVec.toInt_signExtend_of_le (by decide)]
    refine ⟨?_, ?_, ?_, le_toInt_rel7 w, toInt_rel7_le w⟩
    · rw [hvalue, BitVec.toInt_eq_msb_cond, BitVec.msb_eq_getLsbD_last]
      rfl
    · rw [hs, rel7]
    · rw [toInt_rel7, hvalue]
  · exact ⟨rel7_of_bits, rel7_of_bits, rel7_of_bits, rel7_of_bits, rel7_of_bits, rel7_of_bits, rel7_of_bits⟩

end Sys2Proof

namespace Sys2Proof.Machine

/-! ## The invariant of records and outputs (R49, R51; spec/20_memory.md R32) -/

theorem outMatchesHistory_emit (r : Record) (s : State) : OutMatchesHistory (emit r s) :=
  ⟨r, List.getLast?_concat, rfl⟩

/-- An emitted record that is the decoding of its raw word keeps the invariant, whatever the outputs showed. -/
theorem inv_emit {s : State} (h : s.Inv) {r : Record} (hr : r = decodeRecord catalog r.raw) :
    (emit r s).Inv := by
  obtain ⟨hrecords, -⟩ := h
  refine ⟨fun r' hr' => ?_, outMatchesHistory_emit r s⟩
  rcases List.mem_append.mp hr' with hold | hnew
  · exact hrecords r' hold
  · rwa [List.mem_singleton.mp hnew]

/-- A cycle without a record shows quiet outputs and leaves the history as it is. -/
theorem effect_inv {s : State} (h : s.Inv) (ev : CycleEvent) : (ev.effect s).Inv := by
  have ⟨hrecords, _⟩ := h
  cases ev with
  | reset | idle | lowByte _ | truncated => exact ⟨hrecords, rfl⟩
  | word w =>
    have haccept : (acceptHigh s).Inv := h
    exact inv_emit haccept (by rw [decodeRecord_raw])

/-- Settles O54: taking the input keeps the invariant, and so does the effect of every event. -/
theorem stepKeepsInvariant : Obligations.StepKeepsInvariant := by
  intro s t h hstep
  have htaken : (takeInput s).Inv := h
  rw [eq_effect_of_step hstep]
  exact effect_inv htaken _

/-! ## The record of every form (R49) -/

/-- Settles O11: each entry's layout holds the operands of its form, and `raw` tells records apart. -/
theorem recordOfEveryForm : Obligations.RecordOfEveryForm := by
  refine ⟨fun w => ?_, fun v w h => ?_⟩
  · unfold matchForm
    cases h : firstMatch catalog w with
    | none =>
      rw [decodeRecord_of_firstMatch_none h]
      rfl
    | some e =>
      obtain ⟨he, -⟩ := firstMatch_some h
      rw [decodeRecord_of_firstMatch_some h]
      simp only [catalog, List.mem_cons, List.not_mem_nil, or_false] at he
      rcases he with rfl | rfl | rfl | rfl | rfl | rfl | rfl | rfl | rfl | rfl | rfl | rfl | rfl <;> rfl
  · have hraw := congrArg Record.raw h
    rwa [decodeRecord_raw, decodeRecord_raw] at hraw

/-! ## The form codes (R50) -/

theorem formCode_injective {f g : Form} (h : formCode f = formCode g) : f = g := by
  have hcodes : ∀ f ∈ forms, ∀ g ∈ forms, formCode f = formCode g → f = g := by decide
  exact hcodes f (mem_forms f) g (mem_forms g) h

theorem formCode_toNat_le (f : Form) : (formCode f).toNat ≤ 13 := by
  have hcodes : ∀ f ∈ forms, (formCode f).toNat ≤ 13 := by decide
  exact hcodes f (mem_forms f)

/-- The port shows the code of a form in every cycle; without a record it is UNKNOWN's, 0. -/
theorem effect_outForm (ev : CycleEvent) (s : State) : ∃ f, (ev.effect s).out.outForm = formCode f := by
  cases ev with
  | reset | idle | lowByte _ | truncated => exact ⟨.unknown, rfl⟩
  | word w => exact ⟨_, rfl⟩

/-- Settles O12: the port shows the code of the record's form, and no form has a code above 13. -/
theorem formCodesOnThePort : Obligations.FormCodesOnThePort := by
  refine ⟨rfl, by decide, fun _ _ => formCode_injective, fun s t w hw hstep => ?_, fun s t hstep => ?_⟩
  · obtain rfl := Host.Outcome.next.inj ((step_of_completesWord hw).symm.trans hstep)
    exact congrArg formCode (decodeRecord_form catalog w)
  · obtain ⟨f, hf⟩ := effect_outForm (comingEvent s) (takeInput s)
    have hcode := formCode_toNat_le f
    rw [eq_effect_of_step hstep, hf]
    exact ⟨fun h => absurd (h ▸ hcode) (by decide), fun h => absurd (h ▸ hcode) (by decide)⟩

/-! ## Nothing stops the block (R59) -/

/-- Every step answers a next state, so every run does. -/
theorem exists_run_eq_next (n : Nat) (s : State) : ∃ t, Sys2Proof.core.run n s = .next t := by
  induction n generalizing s with
  | zero => exact ⟨s, run_zero s⟩
  | succ n ih =>
    rw [run_succ_of_step (step_eq_effect s)]
    exact ih _

/-- Settles O38: a completed word emits its record, and no event stops a run. -/
theorem nothingStopsTheBlock : Obligations.NothingStopsTheBlock :=
  ⟨fun _ _ hw => ⟨_, step_of_completesWord hw, List.length_append⟩, exists_run_eq_next⟩

/-! ## The text of a stream, line by line (R61; spec/47_renderer.md R77, R82) -/

theorem memReadWord_eq_some_getD {bytes : List Byte} {i : Nat} (hi : i < bytes.length / 2) :
    memReadWord bytes (2 * i) = some ((memReadWord bytes (2 * i)).getD 0#16) := by
  have hword : i < (words bytes).length := by rwa [length_words]
  rw [← getElem?_words, List.getElem?_eq_getElem hword, Option.getD_some]

/-- The words of a stream, read one after the other. -/
theorem words_eq_map_range (bytes : List Byte) :
    words bytes = (List.range (bytes.length / 2)).map fun i => (memReadWord bytes (2 * i)).getD 0#16 := by
  apply List.ext_getElem?
  intro i
  rw [getElem?_words, List.getElem?_map]
  by_cases hi : i < bytes.length / 2
  · rw [List.getElem?_range hi, memReadWord_eq_some_getD hi]
    rfl
  · have hword : (words bytes).length ≤ i := by rw [length_words]; omega
    rw [← getElem?_words, List.getElem?_eq_none hword, List.getElem?_eq_none (by simpa using hi)]
    rfl

theorem streamErr_dropAndFlag (L : Nat) :
    streamErr .dropAndFlag L = if L % 2 = 1 then .truncatedStream else .none := by
  unfold streamErr
  split <;> rfl

theorem decodeStream_hardware_err (bytes : List Byte) :
    (decodeStream Config.hardware bytes).2 = if bytes.length % 2 = 1 then .truncatedStream else .none :=
  streamErr_dropAndFlag bytes.length

/-! ### No line holds a control character (R84) -/

theorem hexDigit_printable : ∀ d : BitVec 4, 32 ≤ (hexDigit d).toNat := by decide

theorem hex2_printable (b : Byte) : ∀ c ∈ hex2 b, 32 ≤ c.toNat := by
  simp only [hex2, List.forall_mem_cons]
  exact ⟨hexDigit_printable _, hexDigit_printable _, fun _ h => absurd h List.not_mem_nil⟩

theorem dec_printable (n : Nat) : ∀ c ∈ dec n, 32 ≤ c.toNat := by
  intro c hc
  have hdigit := Nat.isDigit_of_mem_toDigits (by decide) (by decide) hc
  have hrange := Char.isDigit_iff_toNat.mp hdigit
  exact Nat.le_trans (by decide) hrange.1

theorem regText_printable (r : RegIndex) : ∀ c ∈ regText r, 32 ≤ c.toNat :=
  List.forall_mem_append.mpr ⟨by simp, dec_printable _⟩

theorem immText_printable (k : Byte) : ∀ c ∈ immText k, 32 ≤ c.toNat :=
  List.forall_mem_append.mpr ⟨by simp, hex2_printable k⟩

theorem offText_printable (off : Byte) : ∀ c ∈ offText off, 32 ≤ c.toNat := by
  unfold offText
  split
  · exact List.forall_mem_append.mpr ⟨by simp, hex2_printable off⟩
  · exact List.forall_mem_append.mpr ⟨by simp, hex2_printable (-off)⟩

theorem hex4_printable (w : Word) : ∀ c ∈ hex4 w, 32 ≤ c.toNat :=
  List.forall_mem_append.mpr ⟨hex2_printable _, hex2_printable _⟩

/-- A line is made of operands and fixed text. -/
theorem render_printable (r : Record) : ∀ c ∈ render r, 32 ≤ c.toNat := by
  have hrd := regText_printable r.rd
  have hrr := regText_printable r.rr
  have hk := immText_printable r.k
  have hoff := offText_printable r.off
  have hraw := hex4_printable r.raw
  unfold render
  cases r.form with
  | nop => simp
  | clr | ldXinc | ldYinc | ldXdec | inc | dec => simpa [or_imp, forall_and] using hrd
  | ldi | cpi | sbiw => simpa [or_imp, forall_and] using ⟨hrd, hk⟩
  | mov | cp => simpa [or_imp, forall_and] using ⟨hrd, hrr⟩
  | brne => simpa [or_imp, forall_and] using hoff
  | unknown => simpa [or_imp, forall_and] using hraw

theorem not_mem_render_of_control {c : Char} (hc : c.toNat < 32) (r : Record) : c ∉ render r :=
  fun h => absurd (render_printable r c h) (Nat.not_le.mpr hc)

/-! ### Lines and line feeds -/

theorem count_line (r : Record) : (render r ++ ['\n']).count '\n' = 1 := by
  rw [List.count_append, List.count_eq_zero.mpr (not_mem_render_of_control (by decide) r)]
  rfl

theorem renderLines_cons (newline : Text) (r : Record) (rs : List Record) :
    renderLines newline (r :: rs) = (render r ++ newline) ++ renderLines newline rs := List.flatMap_cons

theorem count_renderLines (rs : List Record) : (renderLines ['\n'] rs).count '\n' = rs.length := by
  induction rs with
  | nil => rfl
  | cons r rs ih =>
    rw [renderLines_cons, List.count_append, count_line, ih, List.length_cons, Nat.add_comm]

theorem getLast?_renderLines {rs : List Record} (h : rs ≠ []) : (renderLines ['\n'] rs).getLast? = some '\n' := by
  obtain ⟨init, r, rfl⟩ := (List.eq_nil_or_concat rs).resolve_left h
  rw [renderLines, List.concat_eq_append, List.flatMap_append, List.flatMap_singleton, List.getLast?_append,
    List.getLast?_concat, Option.some_or]

theorem carriageReturn_not_mem_renderLines (rs : List Record) : '\r' ∉ renderLines ['\n'] rs := by
  simp only [renderLines, List.mem_flatMap, List.mem_append, not_exists, not_and, not_or]
  exact fun r _ => ⟨not_mem_render_of_control (by decide) r, by decide⟩

/-- Settles O58: the records are those of the words read in order, and the text is their lines. -/
theorem oneLinePerRecord : Obligations.OneLinePerRecord := by
  intro bytes wordAt records
  have hrecords : (decodeStream Config.hardware bytes).1 = records := by
    rw [decodeStream_records, words_eq_map_range, List.map_map]
    rfl
  have htext : renderStream Config.hardware bytes = renderLines ['\n'] records := by
    rw [renderStream, hrecords]
    rfl
  have hlength : records.length = bytes.length / 2 := by rw [List.length_map, List.length_range]
  rw [htext]
  refine ⟨Prod.ext hrecords (decodeStream_hardware_err bytes), List.flatMap_map _ _ _,
    fun i hi => memReadWord_eq_some_getD hi, ?_, carriageReturn_not_mem_renderLines records, fun h => ?_,
    fun h => ?_⟩
  · rw [count_renderLines, hlength]
  · have hne : records ≠ [] := by
      rw [← List.length_pos_iff, hlength]
      omega
    exact getLast?_renderLines hne
  · have hnil : records = [] := by
      rw [← List.length_eq_zero_iff, hlength]
      omega
    rw [hnil]
    rfl

/-! ## The ports compute `decode_stream` (R61; spec/20_memory.md section 8, 70_reset_and_hazards.md R102) -/

/-- The first presented byte is the stream's first, and it is marked exactly when it is also the last. -/
theorem markLast_eq_cons_iff {bytes : List Byte} {b : Byte} {last : Bool} {ps : List (Byte × Bool)} :
    markLast bytes = (b, last) :: ps ↔
      ∃ more, bytes = b :: more ∧ (last = true ↔ more = []) ∧ markLast more = ps := by
  constructor
  · intro h
    match bytes, h with
    | [b'], h =>
      simp only [markLast, List.cons.injEq, Prod.mk.injEq] at h
      obtain ⟨⟨rfl, rfl⟩, rfl⟩ := h
      exact ⟨[], rfl, by decide, rfl⟩
    | b' :: b'' :: more, h =>
      simp only [markLast, List.cons.injEq, Prod.mk.injEq] at h
      obtain ⟨⟨rfl, rfl⟩, hmore⟩ := h
      exact ⟨b'' :: more, rfl, by simp, hmore⟩
  · rintro ⟨more, rfl, hlast, rfl⟩
    cases more with
    | nil => rw [hlast.mpr rfl]; rfl
    | cons b' more =>
      rw [Bool.eq_false_of_not_eq_true fun h => nomatch hlast.mp h]
      rfl

/-- The bytes of the word that is being assembled: the held low byte, if one is held (spec/10_state.md R13). -/
def heldBytes (s : State) : List Byte :=
  match s.phase with
  | .low => []
  | .high => [s.lo]

theorem heldBytes_of_low {s : State} (h : s.phase = .low) : heldBytes s = [] := by
  rw [heldBytes, h]

theorem heldBytes_of_high {s : State} (h : s.phase = .high) : heldBytes s = [s.lo] := by
  rw [heldBytes, h]

/-- The stream `bytes` is still to come in the cycles `cs`, with `rest` after them; a held byte is never the last one
of its stream, for the last one is marked. -/
structure AwaitsStream (s : State) (cs rest : List PortIn) (bytes : List Byte) : Prop where
  pending : s.pending = cs ++ rest
  presents : PresentsStream cs bytes
  held : s.phase = .high → bytes ≠ []

/-- The history once the bytes to come have been decoded behind the held one. -/
def finalRecords (s : State) (bytes : List Byte) : List Record :=
  s.emitted ++ (decodeStream Config.hardware (heldBytes s ++ bytes)).1

/-- The fault bit once the bytes to come have been taken behind the held one. -/
def finalErr (s : State) (bytes : List Byte) : Bool :=
  s.errTruncated || decide ((heldBytes s ++ bytes).length % 2 = 1)

/-! ### What one cycle takes of a stream -/

theorem presentsStream_of_idle {c : PortIn} {cs : List PortIn} {bytes : List Byte}
    (h : PresentsStream (c :: cs) bytes) (hv : c.inValid = false) : PresentsStream cs bytes := by
  obtain ⟨hrst, hpresented⟩ := h
  rw [presented_cons_idle hv] at hpresented
  exact ⟨fun c' hc' => hrst c' (List.mem_cons_of_mem c hc'), hpresented⟩

theorem presentsStream_of_valid {c : PortIn} {cs : List PortIn} {bytes : List Byte}
    (h : PresentsStream (c :: cs) bytes) (hv : c.inValid = true) :
    ∃ more, bytes = c.inByte :: more ∧ (c.inLast = true ↔ more = []) ∧ PresentsStream cs more := by
  obtain ⟨hrst, hpresented⟩ := h
  rw [presented_cons_valid hv] at hpresented
  obtain ⟨more, hbytes, hlast, hmore⟩ := markLast_eq_cons_iff.mp hpresented.symm
  exact ⟨more, hbytes, hlast, fun c' hc' => hrst c' (List.mem_cons_of_mem c hc'), hmore.symm⟩

/-- `t` awaits what is left of the stream that `s` awaits, and that leads to the same records and fault bit. -/
def Continues (s t : State) (cs rest : List PortIn) (bytes : List Byte) : Prop :=
  ∃ more, AwaitsStream t cs rest more ∧
    finalRecords t more = finalRecords s bytes ∧ finalErr t more = finalErr s bytes

/-- A low byte that is not the last of its stream is held. -/
theorem continues_holdLow {s : State} {cs rest : List PortIn} {b : Byte} {more : List Byte}
    (hlow : s.phase = .low) (hpending : s.pending = cs ++ rest) (hmore : PresentsStream cs more)
    (hne : more ≠ []) : Continues s (holdLow b s) cs rest (b :: more) := by
  refine ⟨more, ⟨hpending, hmore, fun _ => hne⟩, ?_, ?_⟩
  · rw [finalRecords, finalRecords, heldBytes_of_low hlow, heldBytes_of_high (holdLow_phase b s)]
    rfl
  · rw [finalErr, finalErr, heldBytes_of_low hlow, heldBytes_of_high (holdLow_phase b s)]
    rfl

/-- A low byte that is the last of its stream is in no word. -/
theorem continues_raiseTruncatedStream {s : State} {cs rest : List PortIn} {b : Byte}
    (hlow : s.phase = .low) (hpending : s.pending = cs ++ rest) (hmore : PresentsStream cs []) :
    Continues s (raiseTruncatedStream .dropAndFlag s) cs rest [b] := by
  have hlow' : (raiseTruncatedStream .dropAndFlag s).phase = .low := hlow
  refine ⟨[], ⟨hpending, hmore, fun h => nomatch hlow'.symm.trans h⟩, ?_, ?_⟩
  · rw [finalRecords, finalRecords, heldBytes_of_low hlow, heldBytes_of_low hlow']
    rfl
  · rw [finalErr, finalErr, heldBytes_of_low hlow]
    exact (Bool.or_true _).symm

/-- A high byte completes the word whose record the stream has next. -/
theorem continues_word {s : State} {cs rest : List PortIn} {b : Byte} {more : List Byte}
    (hhigh : s.phase = .high) (hpending : s.pending = cs ++ rest) (hmore : PresentsStream cs more) :
    Continues s (emit (decodeRecord catalog (wordOfBytes s.lo b)) (acceptHigh s)) cs rest (b :: more) := by
  refine ⟨more, ⟨hpending, hmore, fun h => nomatch h⟩, ?_, ?_⟩
  · rw [finalRecords, finalRecords, heldBytes_of_high hhigh, heldBytes_of_low rfl]
    exact List.append_assoc _ _ _
  · have hparity : ([s.lo] ++ b :: more).length % 2 = more.length % 2 := Nat.add_mod_right more.length 2
    rw [finalErr, finalErr, heldBytes_of_high hhigh, heldBytes_of_low rfl, hparity]
    rfl

/-- A cycle takes what it is given of a stream, and what the stream leads to stays as it was. -/
theorem effect_continues {s : State} {c : PortIn} {cs rest : List PortIn} {bytes : List Byte}
    (h : AwaitsStream s (c :: cs) rest bytes) :
    Continues s ((comingEvent s).effect (takeInput s)) cs rest bytes := by
  obtain ⟨hpending, hpresents, hheld⟩ := h
  obtain rfl : currentInput s = c := currentInput_cons hpending
  have hrest : (takeInput s).pending = cs ++ rest := by rw [takeInput_pending, hpending]; rfl
  rcases comingEvent_cases s with ⟨hrst, -⟩ | ⟨-, hvalid, hevent⟩ | ⟨⟨-, hvalid⟩, hphase, hlast, hevent⟩ |
    ⟨⟨-, hvalid⟩, hphase, hlast, hevent⟩ | ⟨⟨-, hvalid⟩, hphase, hevent⟩
  · exact nomatch hrst.symm.trans (hpresents.1 _ List.mem_cons_self)
  · rw [hevent]
    exact ⟨bytes, ⟨hrest, presentsStream_of_idle hpresents hvalid, hheld⟩, rfl, rfl⟩
  · obtain ⟨more, rfl, hmarked, hmore⟩ := presentsStream_of_valid hpresents hvalid
    have hne : more ≠ [] := fun h => nomatch hlast.symm.trans (hmarked.mpr h)
    rw [hevent]
    exact continues_holdLow hphase hrest hmore hne
  · obtain ⟨more, rfl, hmarked, hmore⟩ := presentsStream_of_valid hpresents hvalid
    obtain rfl := hmarked.mp hlast
    rw [hevent]
    exact continues_raiseTruncatedStream hphase hrest hmore
  · obtain ⟨more, rfl, -, hmore⟩ := presentsStream_of_valid hpresents hvalid
    rw [hevent]
    exact continues_word hphase hrest hmore

/-- Once all cycles are taken, what the stream leads to is what the state holds. -/
theorem run_of_awaitsStream {s : State} {cs rest : List PortIn} {bytes : List Byte}
    (h : AwaitsStream s cs rest bytes) :
    ∃ t, Sys2Proof.core.run cs.length s = .next t ∧ t.phase = .low ∧ t.pending = rest ∧
      t.emitted = finalRecords s bytes ∧ t.errTruncated = finalErr s bytes := by
  induction cs generalizing s bytes with
  | nil =>
    obtain ⟨hpending, ⟨-, hpresented⟩, hheld⟩ := h
    obtain rfl := markLast_eq_nil.mp hpresented.symm
    have hlow : s.phase = .low := by
      cases hp : s.phase with
      | low => rfl
      | high => exact absurd rfl (hheld hp)
    refine ⟨s, run_zero s, hlow, hpending, ?_, ?_⟩
    · rw [finalRecords, heldBytes_of_low hlow]
      exact (List.append_nil _).symm
    · rw [finalErr, heldBytes_of_low hlow]
      exact (Bool.or_false _).symm
  | cons c cs ih =>
    obtain ⟨more, hawaits, hrecords, herr⟩ := effect_continues h
    rw [List.length_cons, run_succ_of_step (step_eq_effect s), ← hrecords, ← herr]
    exact ih hawaits

/-- Settles O51: from `phase` 0 no byte is held, so what the cycles lead to is the stream's own decoding. -/
theorem portsComputeDecodeStream : Obligations.PortsComputeDecodeStream := by
  intro s bytes cs rest hphase hpending hpresents
  have hheld : s.phase = .high → bytes ≠ [] := fun h => nomatch hphase.symm.trans h
  obtain ⟨t, hrun, hlow, hrest, hrecords, herr⟩ := run_of_awaitsStream ⟨hpending, hpresents, hheld⟩
  have hnone : heldBytes s = [] := heldBytes_of_low hphase
  refine ⟨t, hrun, hlow, hrest, ?_, ?_⟩
  · rw [hrecords, finalRecords, hnone, List.nil_append]
  · rw [herr, finalErr, hnone, List.nil_append, decodeStream_hardware_err]
    simp

end Sys2Proof.Machine

/-! # The words of one form (spec/30_encoding.md R37, R38; 40_matcher_extractor.md R49, R59)

Facts for every entry of the catalog, from which the statements of a single form are instances. -/

namespace Sys2Proof

/-- A word has an entry's form exactly when the entry's mask and pattern say so. -/
theorem matchForm_eq_form_iff_and_eq {e : CatalogEntry} (he : e ∈ catalog) (w : Word) :
    matchForm catalog w = e.form ↔ w &&& e.mask = e.pattern :=
  (matchForm_eq_form_iff he w).trans (accepts_iff_of_mem he w)

@[simp] theorem extractInstr_form (f : Form) (w : Word) : (extractInstr f w).form = f := by
  cases f <;> rfl

@[simp] theorem decode_form (w : Word) : (decode w).form = matchForm catalog w := extractInstr_form _ w

/-- Each well-formed instruction has exactly one word: its encoding. -/
theorem existsUnique_decode_eq {i : Instr} (h : i.wf = true) : ∃! w : Word, decode w = i :=
  ⟨encode i, decode_encode h, fun w hw => hw ▸ (encode_decode w).symm⟩

theorem regD5_eq_ofNat_bits (w : Word) : regD5 w = BitVec.ofNat 5 (Machine.bits w 8 4) := by
  rw [← toNat_regD5, BitVec.ofNat_toNat, BitVec.setWidth_eq]

/-- The layout `oooo ooxd dddd xxxx` of R36 as a sum over the numbers of its fields. -/
theorem append_split_eq_ofNat (o : BitVec 6) (x d : BitVec 5) :
    (o ++ x.extractLsb' 4 1 ++ d ++ x.extractLsb' 0 4 : Word) =
      BitVec.ofNat 16 (o.toNat * 1024 + x.toNat / 16 * 512 + d.toNat * 16 + x.toNat % 16) := by
  have hx : x.toNat / 16 % 2 = x.toNat / 16 := by omega
  apply BitVec.eq_of_toNat_eq
  simp only [toNat_append_eq_add, BitVec.extractLsb'_toNat, BitVec.toNat_ofNat, Nat.shiftRight_eq_div_pow,
    Nat.reducePow, Nat.div_one, hx]
  omega

end Sys2Proof

namespace Sys2Proof.Machine

/-- A word that agrees with an entry has the record of the entry's layout. -/
theorem decodeRecord_of_and_eq {e : CatalogEntry} (he : e ∈ catalog) {w : Word}
    (hw : w &&& e.mask = e.pattern) : decodeRecord catalog w = extractRecord e.format e.form w :=
  decodeRecord_of_firstMatch_some (firstMatch_eq_some_iff.mpr ⟨he, (accepts_iff_of_mem he w).mpr hw⟩)

/-- The cycle that completes a word of an entry emits the record of the entry's layout and changes nothing else. -/
theorem step_of_completesWord_of_and_eq {e : CatalogEntry} (he : e ∈ catalog) {s : State} {w : Word}
    (h : CompletesWord s w) (hw : w &&& e.mask = e.pattern) :
    step s = .next (afterRecord (formCode e.form) (extractRecord e.format e.form w) (wordTaken s)) := by
  rw [step_of_completesWord h, decodeRecord_of_and_eq he hw, acceptHigh_takeInput, emit_eq_afterRecord,
    extractRecord_form]

end Sys2Proof.Machine

/-! # NOP and CLR (spec/41_class1_2_nop_clr.md R63, R64) -/

namespace Sys2Proof

theorem nop_mem_catalog : ⟨1, 1, .nop, 0xFFFF#16, 0x0000#16, .fixed⟩ ∈ catalog := by decide

theorem clr_mem_catalog : ⟨2, 2, .clr, 0xFC00#16, 0x2400#16, .clr1⟩ ∈ catalog := by decide

/-- NOP's mask leaves no bit free. -/
theorem matchForm_eq_nop_iff (w : Word) : matchForm catalog w = .nop ↔ w = 0x0000#16 := by
  have h : matchForm catalog w = .nop ↔ w &&& 0xFFFF#16 = 0x0000#16 :=
    matchForm_eq_form_iff_and_eq nop_mem_catalog w
  rwa [and_FFFF] at h

theorem matchForm_eq_clr_iff (w : Word) : matchForm catalog w = .clr ↔ w &&& 0xFC00#16 = 0x2400#16 :=
  matchForm_eq_form_iff_and_eq clr_mem_catalog w

theorem toNat_clrIgnored (w : Word) :
    (clrIgnored w).toNat = Machine.bits w 9 9 * 16 + Machine.bits w 3 0 := by
  rw [Nat.mul_comm]
  exact toNat_regR5 w

/-- A word decodes to CLR exactly when its form is CLR and its fields are the operands. -/
theorem decode_eq_clr_iff {w : Word} {rd : RegIndex} {x : BitVec 5} :
    decode w = .clr rd x ↔ matchForm catalog w = .clr ∧ regD5 w = rd ∧ clrIgnored w = x := by
  constructor
  · intro h
    have hform : matchForm catalog w = .clr := (decode_form w).symm.trans (congrArg Instr.form h)
    rw [decode, hform, extractInstr, Instr.clr.injEq] at h
    exact ⟨hform, h⟩
  · rintro ⟨hform, rfl, rfl⟩
    rw [decode, hform, extractInstr]

end Sys2Proof

namespace Sys2Proof.Machine

/-- A CLR word's text has its Rd alone; the ignored bits do not show. -/
theorem render_decodeRecord_of_clr {w : Word} (hw : w &&& 0xFC00#16 = 0x2400#16) :
    render (decodeRecord catalog w) = "CLR R".toList ++ dec (bits w 8 4) := by
  rw [decodeRecord_of_and_eq clr_mem_catalog hw, ← toNat_regD5]
  rfl

/-- Settles O21: mask and pattern give the form and the record, and the one word of Rd and the ignored bits is their
encoding; the neighbours and examples compute. -/
theorem clrWord : Obligations.ClrWord := by
  refine ⟨matchForm_eq_clr_iff, fun s w hs hw => ⟨?_, render_decodeRecord_of_clr hw⟩, fun rd x => ?_,
    by decide⟩
  · rw [step_of_completesWord_of_and_eq clr_mem_catalog hs hw, ← regD5_eq_ofNat_bits]
    rfl
  · have hunique : ∃! w : Word, decode w = .clr rd x := existsUnique_decode_eq rfl
    simpa only [decode_eq_clr_iff, ← BitVec.toNat_inj (x := clrIgnored _), toNat_clrIgnored] using hunique

/-- Settles O13: NOP's record has no operand, and its encoding is the word 0. -/
theorem nopCompletes : Obligations.NopCompletes := fun _ => rfl

/-- Settles O14: the encoding is the sum of the fields at their places. -/
theorem clrCompletes : Obligations.ClrCompletes := by
  intro s rd x
  have hraw : encode (.clr rd x) =
      BitVec.ofNat 16 (0x2400 + x.toNat / 16 * 512 + rd.toNat * 16 + x.toNat % 16) :=
    append_split_eq_ofNat 0b001001#6 x rd
  rw [← hraw]
  rfl

/-- Settles O20: NOP's mask covers the whole word, so its pattern is its only word; the text and the neighbours
compute. -/
theorem nopWord : Obligations.NopWord :=
  ⟨matchForm_eq_nop_iff, fun _ hs => step_of_completesWord_of_and_eq nop_mem_catalog hs rfl,
    by decide⟩

end Sys2Proof.Machine

/-! # LDI, CPI and SBIW (spec/42_class3_4_immediate.md R65 to R67) -/

namespace Sys2Proof

theorem ldi_mem_catalog : ⟨3, 3, .ldi, 0xF000#16, 0xE000#16, .imm8⟩ ∈ catalog := by decide

theorem cpi_mem_catalog : ⟨4, 3, .cpi, 0xF000#16, 0x3000#16, .imm8⟩ ∈ catalog := by decide

theorem sbiw_mem_catalog : ⟨5, 4, .sbiw, 0xFF00#16, 0x9700#16, .pair⟩ ∈ catalog := by decide

theorem matchForm_eq_ldi_iff (w : Word) : matchForm catalog w = .ldi ↔ w &&& 0xF000#16 = 0xE000#16 :=
  matchForm_eq_form_iff_and_eq ldi_mem_catalog w

theorem matchForm_eq_cpi_iff (w : Word) : matchForm catalog w = .cpi ↔ w &&& 0xF000#16 = 0x3000#16 :=
  matchForm_eq_form_iff_and_eq cpi_mem_catalog w

theorem matchForm_eq_sbiw_iff (w : Word) : matchForm catalog w = .sbiw ↔ w &&& 0xFF00#16 = 0x9700#16 :=
  matchForm_eq_form_iff_and_eq sbiw_mem_catalog w

/-! ## The operands as the numbers of their fields (R54 to R57) -/

theorem regHi_eq_ofNat_bits (w : Word) : regHi w = BitVec.ofNat 5 (16 + Machine.bits w 7 4) := by
  rw [← toNat_regHi, BitVec.ofNat_toNat, BitVec.setWidth_eq]

theorem regPair_eq_ofNat_bits (w : Word) : regPair w = BitVec.ofNat 5 (24 + 2 * Machine.bits w 5 4) := by
  rw [← toNat_regPair, BitVec.ofNat_toNat, BitVec.setWidth_eq]

theorem imm8_eq_ofNat_bits (w : Word) :
    imm8 w = BitVec.ofNat 8 (Machine.bits w 11 8 * 16 + Machine.bits w 3 0) := by
  rw [Nat.mul_comm, ← toNat_imm8, BitVec.ofNat_toNat, BitVec.setWidth_eq]

theorem imm6_eq_ofNat_bits (w : Word) :
    imm6 w = BitVec.ofNat 8 (Machine.bits w 7 6 * 16 + Machine.bits w 3 0) := by
  rw [Nat.mul_comm, ← toNat_imm6, BitVec.ofNat_toNat, BitVec.setWidth_eq]

/-! ## One word per operands -/

/-- A word decodes to an instruction exactly when it has the instruction's form and its fields are the operands. -/
theorem decode_eq_iff {w : Word} {i : Instr} :
    decode w = i ↔ matchForm catalog w = i.form ∧ extractInstr i.form w = i := by
  constructor
  · rintro rfl
    rw [decode_form]
    exact ⟨rfl, rfl⟩
  · rintro ⟨hform, hfields⟩
    rw [decode, hform, hfields]

/-- The selector's register and the literal are what SBIW's encoding holds. -/
theorem sbiw_wf_of_lt {sel k : Nat} (hsel : sel < 4) (hk : k < 64) :
    (Instr.sbiw (BitVec.ofNat 5 (24 + 2 * sel)) (BitVec.ofNat 8 k)).wf = true := by
  have hpairs : ∀ n < 4, [24#5, 26#5, 28#5, 30#5].contains (BitVec.ofNat 5 (24 + 2 * n)) = true := by decide
  have hliteral : (BitVec.ofNat 8 k).toNat ≤ 63 := by
    rw [BitVec.toNat_ofNat]
    omega
  exact Bool.and_eq_true_iff.mpr ⟨hpairs sel hsel, decide_eq_true hliteral⟩

/-! ## The layouts of R36 as sums over the numbers of their fields -/

/-- `oooo KKKK dddd KKKK`, for a register of the upper half. -/
theorem append_imm8_eq_ofNat (o : BitVec 4) (k : Byte) {rd : RegIndex} (hrd : 16 ≤ rd.toNat) :
    (o ++ k.extractLsb' 4 4 ++ rd.extractLsb' 0 4 ++ k.extractLsb' 0 4 : Word) =
      BitVec.ofNat 16 (o.toNat * 4096 + k.toNat / 16 * 256 + (rd.toNat - 16) * 16 + k.toNat % 16) := by
  have hk : k.toNat / 16 % 16 = k.toNat / 16 := by omega
  have hd : rd.toNat % 16 = rd.toNat - 16 := by omega
  apply BitVec.eq_of_toNat_eq
  simp only [toNat_append_eq_add, BitVec.extractLsb'_toNat, BitVec.toNat_ofNat, Nat.shiftRight_eq_div_pow,
    Nat.reducePow, Nat.div_one, hk, hd]
  omega

/-- `oooo oooo KKpp KKKK`, for the low register of a pair and a 6-bit literal. -/
theorem append_pair_eq_ofNat (o : BitVec 8) {k : Byte} {rd : RegIndex} (hrd : 24 ≤ rd.toNat)
    (hk : k.toNat ≤ 63) :
    (o ++ k.extractLsb' 4 2 ++ rd.extractLsb' 1 2 ++ k.extractLsb' 0 4 : Word) =
      BitVec.ofNat 16 (o.toNat * 256 + k.toNat / 16 * 64 + (rd.toNat - 24) / 2 * 16 + k.toNat % 16) := by
  have hkh : k.toNat / 16 % 4 = k.toNat / 16 := by omega
  have hp : rd.toNat / 2 % 4 = (rd.toNat - 24) / 2 := by omega
  apply BitVec.eq_of_toNat_eq
  simp only [toNat_append_eq_add, BitVec.extractLsb'_toNat, BitVec.toNat_ofNat, Nat.shiftRight_eq_div_pow,
    Nat.reducePow, Nat.div_one, hkh, hp]
  omega

/-! ## Exchanging the top nibbles of LDI and CPI (R66) -/

/-- `0xD000` has no bit in the register's field. -/
theorem regHi_xor_D000 (w : Word) : regHi (w ^^^ 0xD000#16) = regHi w := by
  have hfield : (0xD000#16).extractLsb' 4 4 = 0#4 := by decide
  rw [regHi, BitVec.extractLsb'_xor, hfield, BitVec.xor_zero, regHi]

/-- `0xD000` has no bit in the two fields of the constant. -/
theorem imm8_xor_D000 (w : Word) : imm8 (w ^^^ 0xD000#16) = imm8 w := by
  have hhigh : (0xD000#16).extractLsb' 8 4 = 0#4 := by decide
  have hlow : (0xD000#16).extractLsb' 0 4 = 0#4 := by decide
  rw [imm8, BitVec.extractLsb'_xor, BitVec.extractLsb'_xor, hhigh, hlow, BitVec.xor_zero, BitVec.xor_zero, imm8]

theorem xor_and_distrib_right {n : Nat} (x y m : BitVec n) : (x ^^^ y) &&& m = (x &&& m) ^^^ (y &&& m) := by
  ext i hi
  simp only [BitVec.getElem_and, BitVec.getElem_xor, Bool.and_xor_distrib_right]

theorem xor_D000_and_F000 {w : Word} (hw : w &&& 0xF000#16 = 0xE000#16) :
    (w ^^^ 0xD000#16) &&& 0xF000#16 = 0x3000#16 := by
  rw [xor_and_distrib_right, hw]
  rfl

end Sys2Proof

namespace Sys2Proof.Machine

/-- `w ^ 0xD000` gives an LDI word's record the form CPI and leaves its operands. -/
theorem decodeRecord_xor_D000_of_ldi {w : Word} (hw : w &&& 0xF000#16 = 0xE000#16) :
    decodeRecord catalog (w ^^^ 0xD000#16) =
      { decodeRecord catalog w with form := .cpi, raw := w ^^^ 0xD000#16 } := by
  rw [decodeRecord_of_and_eq cpi_mem_catalog (xor_D000_and_F000 hw), decodeRecord_of_and_eq ldi_mem_catalog hw,
    extractRecord, regHi_xor_D000, imm8_xor_D000]
  rfl

/-! ## The texts (spec/47_renderer.md R78, R79, R83) -/

/-- A mnemonic with a register and an immediate operand, its fixed characters put together. -/
theorem append_regText_immText (mnemonic : Text) (rd : RegIndex) (k : Byte) :
    mnemonic ++ regText rd ++ ",".toList ++ immText k =
      mnemonic ++ "R".toList ++ dec rd.toNat ++ ",0x".toList ++ hex2 k := by
  have hcomma : ",0x".toList = ",".toList ++ "0x".toList := rfl
  simp only [regText, immText, hcomma, List.append_assoc]

theorem render_decodeRecord_of_ldi {w : Word} (hw : w &&& 0xF000#16 = 0xE000#16) :
    render (decodeRecord catalog w) = "LDI R".toList ++ dec (16 + bits w 7 4) ++ ",0x".toList ++
      hex2 (BitVec.ofNat 8 (bits w 11 8 * 16 + bits w 3 0)) := by
  rw [decodeRecord_of_and_eq ldi_mem_catalog hw, ← toNat_regHi, ← imm8_eq_ofNat_bits]
  exact append_regText_immText "LDI ".toList (regHi w) (imm8 w)

theorem render_decodeRecord_of_cpi {w : Word} (hw : w &&& 0xF000#16 = 0x3000#16) :
    render (decodeRecord catalog w) = "CPI R".toList ++ dec (16 + bits w 7 4) ++ ",0x".toList ++
      hex2 (BitVec.ofNat 8 (bits w 11 8 * 16 + bits w 3 0)) := by
  rw [decodeRecord_of_and_eq cpi_mem_catalog hw, ← toNat_regHi, ← imm8_eq_ofNat_bits]
  exact append_regText_immText "CPI ".toList (regHi w) (imm8 w)

theorem render_decodeRecord_of_sbiw {w : Word} (hw : w &&& 0xFF00#16 = 0x9700#16) :
    render (decodeRecord catalog w) = "SBIW R".toList ++ dec (24 + 2 * bits w 5 4) ++ ",0x".toList ++
      hex2 (BitVec.ofNat 8 (bits w 7 6 * 16 + bits w 3 0)) := by
  rw [decodeRecord_of_and_eq sbiw_mem_catalog hw, ← toNat_regPair, ← imm6_eq_ofNat_bits]
  exact append_regText_immText "SBIW ".toList (regPair w) (imm6 w)

/-! ## The statements -/

/-- Settles O22: mask and pattern give the form and the record, and the one word of Rd and K is their encoding; the
neighbours and examples compute. -/
theorem ldiWord : Obligations.LdiWord := by
  refine ⟨matchForm_eq_ldi_iff, fun s w hs hw => ⟨?_, render_decodeRecord_of_ldi hw⟩, fun rd k hrd => ?_,
    by decide⟩
  · rw [step_of_completesWord_of_and_eq ldi_mem_catalog hs hw, ← regHi_eq_ofNat_bits, ← imm8_eq_ofNat_bits]
    rfl
  · have hunique : ∃! w : Word, decode w = .ldi rd k := existsUnique_decode_eq (decide_eq_true hrd)
    simpa only [decode_eq_iff, Instr.form, extractInstr, Instr.ldi.injEq] using hunique

/-- Settles O23: mask and pattern give the form and the record, and the one word of Rd and K is their encoding; `0xD000`
exchanges the top nibbles and no operand; the neighbours and examples compute. -/
theorem cpiWord : Obligations.CpiWord := by
  refine ⟨matchForm_eq_cpi_iff, fun s w hs hw => ⟨?_, render_decodeRecord_of_cpi hw⟩, fun rd k hrd => ?_,
    fun w hw => decodeRecord_xor_D000_of_ldi ((matchForm_eq_ldi_iff w).mp hw), by decide⟩
  · rw [step_of_completesWord_of_and_eq cpi_mem_catalog hs hw, ← regHi_eq_ofNat_bits, ← imm8_eq_ofNat_bits]
    rfl
  · have hunique : ∃! w : Word, decode w = .cpi rd k := existsUnique_decode_eq (decide_eq_true hrd)
    simpa only [decode_eq_iff, Instr.form, extractInstr, Instr.cpi.injEq] using hunique

/-- Settles O24: mask and pattern give the form and the record, and the one word of a selector and a literal is the
encoding of the selected register and the literal; the neighbours and examples compute. -/
theorem sbiwWord : Obligations.SbiwWord := by
  refine ⟨matchForm_eq_sbiw_iff, fun s w hs hw => ⟨?_, render_decodeRecord_of_sbiw hw⟩, fun sel k hsel hk => ?_,
    by decide⟩
  · rw [step_of_completesWord_of_and_eq sbiw_mem_catalog hs hw, ← regPair_eq_ofNat_bits, ← imm6_eq_ofNat_bits]
    rfl
  · have hpair : (BitVec.ofNat 5 (24 + 2 * sel)).toNat = 24 + 2 * sel := Nat.mod_eq_of_lt (by omega)
    have hliteral : (BitVec.ofNat 8 k).toNat = k := Nat.mod_eq_of_lt (by omega)
    have hunique := existsUnique_decode_eq (sbiw_wf_of_lt hsel hk)
    simpa only [decode_eq_iff, Instr.form, extractInstr, Instr.sbiw.injEq, ← BitVec.toNat_inj, hpair, hliteral]
      using hunique

/-- Settles O15: each encoding is the sum of the fields at their places. -/
theorem immediateFormsComplete : Obligations.ImmediateFormsComplete := by
  refine fun s rd k => ⟨fun hrd => ⟨?_, ?_⟩, fun hrd hk => ?_⟩
  · have hraw : encode (.ldi rd k) =
        BitVec.ofNat 16 (0xE000 + k.toNat / 16 * 256 + (rd.toNat - 16) * 16 + k.toNat % 16) :=
      append_imm8_eq_ofNat 0b1110#4 k hrd
    rw [← hraw]
    rfl
  · have hraw : encode (.cpi rd k) =
        BitVec.ofNat 16 (0x3000 + k.toNat / 16 * 256 + (rd.toNat - 16) * 16 + k.toNat % 16) :=
      append_imm8_eq_ofNat 0b0011#4 k hrd
    rw [← hraw]
    rfl
  · have hpairs : ∀ n ∈ [24, 26, 28, 30], 24 ≤ n := by decide
    have hraw : encode (.sbiw rd k) =
        BitVec.ofNat 16 (0x9700 + k.toNat / 16 * 64 + (rd.toNat - 24) / 2 * 16 + k.toNat % 16) :=
      append_pair_eq_ofNat 0b10010111#8 (hpairs _ hrd) hk
    rw [← hraw]
    rfl

end Sys2Proof.Machine

/-! # LD Rd,X+; LD Rd,Y+; LD Rd,-X; INC and DEC (spec/43_class5_indirect_load_unary.md R68 to R72)

The five forms share one layout, so each fact is stated once, over an entry or over an encoding of that layout. -/

namespace Sys2Proof

theorem ldXinc_mem_catalog : ⟨6, 5, .ldXinc, 0xFE0F#16, 0x900D#16, .unary⟩ ∈ catalog := by decide

theorem ldYinc_mem_catalog : ⟨7, 5, .ldYinc, 0xFE0F#16, 0x9009#16, .unary⟩ ∈ catalog := by decide

theorem ldXdec_mem_catalog : ⟨8, 5, .ldXdec, 0xFE0F#16, 0x900E#16, .unary⟩ ∈ catalog := by decide

theorem inc_mem_catalog : ⟨9, 5, .inc, 0xFE0F#16, 0x9403#16, .unary⟩ ∈ catalog := by decide

theorem dec_mem_catalog : ⟨10, 5, .dec, 0xFE0F#16, 0x940A#16, .unary⟩ ∈ catalog := by decide

/-- The layout `oooo oood dddd xxxx` of R36 as a sum over the numbers of its fields. -/
theorem append_unary_eq_ofNat (o : BitVec 7) (d : BitVec 5) (x : BitVec 4) :
    (o ++ d ++ x : Word) = BitVec.ofNat 16 (o.toNat * 512 + x.toNat + d.toNat * 16) := by
  apply BitVec.eq_of_toNat_eq
  simp only [toNat_append_eq_add, BitVec.toNat_ofNat, Nat.reducePow]
  omega

/-- A form whose one operand is `reg_d5` has exactly one word for every register. -/
theorem existsUnique_matchForm_and_regD5 {f : Form} {instr : RegIndex → Instr}
    (hinj : Function.Injective instr) (hwf : ∀ rd, (instr rd).wf = true) (hform : ∀ rd, (instr rd).form = f)
    (hextract : ∀ w, extractInstr f w = instr (regD5 w)) (rd : RegIndex) :
    ∃! w : Word, matchForm catalog w = f ∧ regD5 w = rd := by
  have hunique : ∃! w : Word, decode w = instr rd := existsUnique_decode_eq (hwf rd)
  simpa only [decode_eq_iff, hform, hextract, hinj.eq_iff] using hunique

/-- Flipping the bits in which two patterns under one mask differ exchanges their forms. -/
theorem matchForm_eq_iff_matchForm_xor_eq {e e' : CatalogEntry} (he : e ∈ catalog) (he' : e' ∈ catalog)
    (hmask : e'.mask = e.mask) {d : Word} (hd : e.pattern ^^^ (d &&& e.mask) = e'.pattern) (w : Word) :
    matchForm catalog w = e.form ↔ matchForm catalog (w ^^^ d) = e'.form := by
  rw [matchForm_eq_form_iff_and_eq he, matchForm_eq_form_iff_and_eq he', hmask, xor_and_distrib_right, ← hd,
    BitVec.xor_left_inj]

end Sys2Proof

namespace Sys2Proof.Machine

/-- The cycle that completes a word of a one-register entry emits the register `w[8:4]` and changes nothing else. -/
theorem step_of_completesWord_of_unary {e : CatalogEntry} (he : e ∈ catalog) (hunary : e.format = .unary)
    {s : State} {w : Word} (h : CompletesWord s w) (hw : w &&& e.mask = e.pattern) :
    step s = .next (afterRecord (formCode e.form)
      ⟨e.form, BitVec.ofNat 5 (bits w 8 4), 0#5, 0#8, 0#8, w⟩ (wordTaken s)) := by
  rw [step_of_completesWord_of_and_eq he h hw, hunary, ← regD5_eq_ofNat_bits]
  rfl

/-- The text of a one-register entry's word is what `render` makes of the number `w[8:4]`. -/
theorem render_decodeRecord_of_unary {e : CatalogEntry} (he : e ∈ catalog) (hunary : e.format = .unary)
    {w : Word} (hw : w &&& e.mask = e.pattern) (text : Text → Text)
    (htext : ∀ rd : RegIndex, render (recRd e.form rd w) = text (dec rd.toNat)) :
    render (decodeRecord catalog w) = text (dec (bits w 8 4)) := by
  rw [decodeRecord_of_and_eq he hw, hunary, ← toNat_regD5]
  exact htext (regD5 w)

/-- An instruction that emits a register with its encoding in `raw`, by the code of its form. -/
theorem exec_eq_next_afterRecord_of_recRd (i : Instr) {f : Form} {rd : RegIndex} {raw : Word} {s : State}
    (hexec : exec i s = .next (emit (recRd f rd (encode i)) s)) (hraw : encode i = raw) :
    exec i s = .next (afterRecord (formCode f) ⟨f, rd, 0#5, 0#8, 0#8, raw⟩ s) := by
  rw [hexec, hraw, emit_eq_afterRecord]
  rfl

/-- Settles O25: mask and pattern give the form and the record, and the one word of Rd is its encoding; the neighbours
and examples compute. -/
theorem ldXincWord : Obligations.LdXincWord :=
  ⟨matchForm_eq_form_iff_and_eq ldXinc_mem_catalog,
    fun _ _ hs hw => ⟨step_of_completesWord_of_unary ldXinc_mem_catalog rfl hs hw,
      render_decodeRecord_of_unary ldXinc_mem_catalog rfl hw ("LD R".toList ++ · ++ ",X+".toList) fun _ => rfl⟩,
    existsUnique_matchForm_and_regD5 (fun _ _ => Instr.ldXinc.inj) (fun _ => rfl) (fun _ => rfl) fun _ => rfl,
    by decide⟩

/-- Settles O26: as LD Rd,X+; the two patterns differ in `w[2]` alone, so flipping it exchanges the forms. -/
theorem ldYincWord : Obligations.LdYincWord :=
  ⟨matchForm_eq_form_iff_and_eq ldYinc_mem_catalog,
    fun _ _ hs hw => ⟨step_of_completesWord_of_unary ldYinc_mem_catalog rfl hs hw,
      render_decodeRecord_of_unary ldYinc_mem_catalog rfl hw ("LD R".toList ++ · ++ ",Y+".toList) fun _ => rfl⟩,
    existsUnique_matchForm_and_regD5 (fun _ _ => Instr.ldYinc.inj) (fun _ => rfl) (fun _ => rfl) fun _ => rfl,
    matchForm_eq_iff_matchForm_xor_eq ldYinc_mem_catalog ldXinc_mem_catalog rfl rfl,
    by decide⟩

/-- Settles O27: as LD Rd,X+; the two patterns differ in both bits of `w[1:0]`, so flipping them exchanges the forms. -/
theorem ldXdecWord : Obligations.LdXdecWord :=
  ⟨matchForm_eq_form_iff_and_eq ldXdec_mem_catalog,
    fun _ _ hs hw => ⟨step_of_completesWord_of_unary ldXdec_mem_catalog rfl hs hw,
      render_decodeRecord_of_unary ldXdec_mem_catalog rfl hw ("LD R".toList ++ · ++ ",-X".toList) fun _ => rfl⟩,
    existsUnique_matchForm_and_regD5 (fun _ _ => Instr.ldXdec.inj) (fun _ => rfl) (fun _ => rfl) fun _ => rfl,
    matchForm_eq_iff_matchForm_xor_eq ldXdec_mem_catalog ldXinc_mem_catalog rfl rfl,
    by decide⟩

/-- Settles O28: as LD Rd,X+ under INC's pattern; the record is all that changes, nothing is incremented. -/
theorem incWord : Obligations.IncWord :=
  ⟨matchForm_eq_form_iff_and_eq inc_mem_catalog,
    fun _ _ hs hw => ⟨step_of_completesWord_of_unary inc_mem_catalog rfl hs hw,
      render_decodeRecord_of_unary inc_mem_catalog rfl hw ("INC R".toList ++ ·) fun _ => rfl⟩,
    existsUnique_matchForm_and_regD5 (fun _ _ => Instr.inc.inj) (fun _ => rfl) (fun _ => rfl) fun _ => rfl,
    by decide⟩

/-- Settles O29: as LD Rd,X+ under DEC's pattern; the record is all that changes, nothing is decremented. -/
theorem decWord : Obligations.DecWord :=
  ⟨matchForm_eq_form_iff_and_eq dec_mem_catalog,
    fun _ _ hs hw => ⟨step_of_completesWord_of_unary dec_mem_catalog rfl hs hw,
      render_decodeRecord_of_unary dec_mem_catalog rfl hw ("DEC R".toList ++ ·) fun _ => rfl⟩,
    existsUnique_matchForm_and_regD5 (fun _ _ => Instr.dec.inj) (fun _ => rfl) (fun _ => rfl) fun _ => rfl,
    by decide⟩

/-- Settles O16: each form emits its register, and its encoding is the sum of the fields at their places. -/
theorem indirectAndUnaryFormsComplete : Obligations.IndirectAndUnaryFormsComplete := fun _ rd =>
  ⟨exec_eq_next_afterRecord_of_recRd (.ldXinc rd) rfl (append_unary_eq_ofNat 0b1001000#7 rd 0b1101#4),
    exec_eq_next_afterRecord_of_recRd (.ldYinc rd) rfl (append_unary_eq_ofNat 0b1001000#7 rd 0b1001#4),
    exec_eq_next_afterRecord_of_recRd (.ldXdec rd) rfl (append_unary_eq_ofNat 0b1001000#7 rd 0b1110#4),
    exec_eq_next_afterRecord_of_recRd (.inc rd) rfl (append_unary_eq_ofNat 0b1001010#7 rd 0b0011#4),
    exec_eq_next_afterRecord_of_recRd (.dec rd) rfl (append_unary_eq_ofNat 0b1001010#7 rd 0b1010#4)⟩

end Sys2Proof.Machine

/-! # MOV and CP (spec/44_class6_two_register.md R73, R74)

The two forms share one layout, so each fact is stated once, over an entry or over an encoding of that layout. -/

namespace Sys2Proof

theorem mov_mem_catalog : ⟨11, 6, .mov, 0xFC00#16, 0x2C00#16, .reg2⟩ ∈ catalog := by decide

theorem cp_mem_catalog : ⟨12, 6, .cp, 0xFC00#16, 0x1400#16, .reg2⟩ ∈ catalog := by decide

theorem regR5_eq_ofNat_bits (w : Word) :
    regR5 w = BitVec.ofNat 5 (Machine.bits w 9 9 * 16 + Machine.bits w 3 0) := by
  rw [Nat.mul_comm, ← toNat_regR5, BitVec.ofNat_toNat, BitVec.setWidth_eq]

/-- A form whose operands are `reg_d5` and `reg_r5` has exactly one word for every pair of registers. -/
theorem existsUnique_matchForm_and_regD5_and_regR5 {f : Form} {instr : RegIndex → RegIndex → Instr}
    (hinj : Function.Injective2 instr) (hwf : ∀ rd rr, (instr rd rr).wf = true)
    (hform : ∀ rd rr, (instr rd rr).form = f)
    (hextract : ∀ w, extractInstr f w = instr (regD5 w) (regR5 w)) (rd rr : RegIndex) :
    ∃! w : Word, matchForm catalog w = f ∧ regD5 w = rd ∧ regR5 w = rr := by
  have hunique : ∃! w : Word, decode w = instr rd rr := existsUnique_decode_eq (hwf rd rr)
  simpa only [decode_eq_iff, hform, hextract, hinj.eq_iff] using hunique

end Sys2Proof

namespace Sys2Proof.Machine

/-- The cycle that completes a word of a two-register entry emits the registers `w[8:4]` and `{w[9], w[3:0]}` and
changes nothing else. -/
theorem step_of_completesWord_of_reg2 {e : CatalogEntry} (he : e ∈ catalog) (hreg2 : e.format = .reg2)
    {s : State} {w : Word} (h : CompletesWord s w) (hw : w &&& e.mask = e.pattern) :
    step s = .next (afterRecord (formCode e.form)
      ⟨e.form, BitVec.ofNat 5 (bits w 8 4), BitVec.ofNat 5 (bits w 9 9 * 16 + bits w 3 0), 0#8, 0#8, w⟩
      (wordTaken s)) := by
  rw [step_of_completesWord_of_and_eq he h hw, hreg2, ← regD5_eq_ofNat_bits, ← regR5_eq_ofNat_bits]
  rfl

/-- A mnemonic with two register operands, its fixed characters put together. -/
theorem append_regText_regText (mnemonic : Text) (rd rr : RegIndex) :
    mnemonic ++ regText rd ++ ",".toList ++ regText rr =
      mnemonic ++ "R".toList ++ dec rd.toNat ++ ",R".toList ++ dec rr.toNat := by
  have hcomma : ",R".toList = ",".toList ++ "R".toList := rfl
  simp only [regText, hcomma, List.append_assoc]

/-- The text of a two-register entry's word has the numbers `w[8:4]` and `{w[9], w[3:0]}`, the destination first. -/
theorem render_decodeRecord_of_reg2 {e : CatalogEntry} (he : e ∈ catalog) (hreg2 : e.format = .reg2)
    {w : Word} (hw : w &&& e.mask = e.pattern) (mnemonic : Text)
    (htext : ∀ rd rr : RegIndex,
      render (recRdRr e.form rd rr w) = mnemonic ++ regText rd ++ ",".toList ++ regText rr) :
    render (decodeRecord catalog w) =
      mnemonic ++ "R".toList ++ dec (bits w 8 4) ++ ",R".toList ++ dec (bits w 9 9 * 16 + bits w 3 0) := by
  rw [decodeRecord_of_and_eq he hw, hreg2, ← toNat_regD5, Nat.mul_comm, ← toNat_regR5,
    ← append_regText_regText]
  exact htext (regD5 w) (regR5 w)

/-- An instruction that emits two registers with its encoding in `raw`, by the code of its form. -/
theorem exec_eq_next_afterRecord_of_recRdRr (i : Instr) {f : Form} {rd rr : RegIndex} {raw : Word} {s : State}
    (hexec : exec i s = .next (emit (recRdRr f rd rr (encode i)) s)) (hraw : encode i = raw) :
    exec i s = .next (afterRecord (formCode f) ⟨f, rd, rr, 0#8, 0#8, raw⟩ s) := by
  rw [hexec, hraw, emit_eq_afterRecord]
  rfl

/-- Settles O30: mask and pattern give the form and the record, and the one word of Rd and Rr is their encoding; the
corner words and examples compute. -/
theorem movWord : Obligations.MovWord :=
  ⟨matchForm_eq_form_iff_and_eq mov_mem_catalog,
    fun _ _ hs hw => ⟨step_of_completesWord_of_reg2 mov_mem_catalog rfl hs hw,
      render_decodeRecord_of_reg2 mov_mem_catalog rfl hw "MOV ".toList fun _ _ => rfl⟩,
    existsUnique_matchForm_and_regD5_and_regR5 (fun _ _ _ _ => Instr.mov.inj) (fun _ _ => rfl) (fun _ _ => rfl)
      fun _ => rfl,
    by decide⟩

/-- Settles O31: as MOV under CP's pattern; the neighbours and examples compute. -/
theorem cpWord : Obligations.CpWord :=
  ⟨matchForm_eq_form_iff_and_eq cp_mem_catalog,
    fun _ _ hs hw => ⟨step_of_completesWord_of_reg2 cp_mem_catalog rfl hs hw,
      render_decodeRecord_of_reg2 cp_mem_catalog rfl hw "CP ".toList fun _ _ => rfl⟩,
    existsUnique_matchForm_and_regD5_and_regR5 (fun _ _ _ _ => Instr.cp.inj) (fun _ _ => rfl) (fun _ _ => rfl)
      fun _ => rfl,
    by decide⟩

/-- Settles O17: each form emits its two registers, and its encoding is the sum of the fields at their places. -/
theorem twoRegisterFormsComplete : Obligations.TwoRegisterFormsComplete := fun _ rd rr =>
  ⟨exec_eq_next_afterRecord_of_recRdRr (.mov rd rr) rfl (append_split_eq_ofNat 0b001011#6 rr rd),
    exec_eq_next_afterRecord_of_recRdRr (.cp rd rr) rfl (append_split_eq_ofNat 0b000101#6 rr rd)⟩

end Sys2Proof.Machine

/-! # BRNE (spec/45_class7_branch.md R75) -/

namespace Sys2Proof

theorem brne_mem_catalog : ⟨13, 7, .brne, 0xFC07#16, 0xF401#16, .br7⟩ ∈ catalog := by decide

/-- The increment is applied to the signed field `w[9:3]`, whose sign is `w[9]`, over the integers. -/
theorem toInt_rel7_eq_ite_bits (w : Word) : (rel7 w).toInt =
    (if Machine.bits w 9 9 = 1 then (Machine.bits w 9 3 : Int) - 128 else (Machine.bits w 9 3 : Int)) + 1 := by
  rw [toInt_rel7, toInt_extractLsb'_eq_ite_bits]

/-- Each offset from -63 to 64 has exactly one word. -/
theorem existsUnique_matchForm_brne_and_toInt_rel7 {off : Int} (hlow : -63 ≤ off) (hhigh : off ≤ 64) :
    ∃! w : Word, matchForm catalog w = .brne ∧ (rel7 w).toInt = off := by
  have hoff : (BitVec.ofInt 8 off).toInt = off :=
    BitVec.toInt_ofInt_eq_self (by decide) (by omega) (by omega)
  have hwf : (Instr.brne (BitVec.ofInt 8 off)).wf = true := by
    rw [Instr.wf, hoff]
    exact Bool.and_eq_true_iff.mpr ⟨decide_eq_true hlow, decide_eq_true hhigh⟩
  have hunique := existsUnique_decode_eq hwf
  simpa only [decode_eq_iff, Instr.form, extractInstr, Instr.brne.injEq, ← BitVec.toInt_inj, hoff] using hunique

/-- The layout `oooo ookk kkkk ksss` of R36 as a sum over the numbers of its fields. -/
theorem append_br7_eq_ofNat (o : BitVec 6) (k : BitVec 7) (sel : BitVec 3) :
    (o ++ k ++ sel : Word) = BitVec.ofNat 16 (o.toNat * 1024 + sel.toNat + k.toNat * 8) := by
  apply BitVec.eq_of_toNat_eq
  simp only [toNat_append_eq_add, BitVec.toNat_ofNat, Nat.reducePow]
  omega

/-- The displacement field that `encode` writes is the offset without the increment, modulo the field's 128 values. -/
theorem toNat_extractLsb'_sub_one (off : Byte) :
    ((off - 1#8).extractLsb' 0 7).toNat = ((off.toInt - 1) % 128).toNat := by
  simp only [BitVec.extractLsb'_toNat, Nat.shiftRight_zero, BitVec.toNat_sub, BitVec.toNat_ofNat,
    BitVec.toInt_eq_toNat_cond, Nat.reducePow, Nat.reduceMod, Nat.reduceSub]
  split <;> omega

end Sys2Proof

namespace Sys2Proof.Machine

/-! ## The text of the offset (spec/47_renderer.md R80, R83) -/

theorem ofNat_toNat_eq_ofInt {n : Nat} {i : Int} (hi : 0 ≤ i) : BitVec.ofNat n i.toNat = BitVec.ofInt n i := by
  rw [← BitVec.ofInt_natCast, Int.toNat_of_nonneg hi]

/-- Zero is on this side: it has the plus sign. -/
theorem offText_of_nonneg {off : Byte} (hoff : 0 ≤ off.toInt) :
    offText off = "PC+0x".toList ++ hex2 (BitVec.ofNat 8 off.toInt.toNat) := by
  rw [ofNat_toNat_eq_ofInt hoff, BitVec.ofInt_toInt, offText, if_pos hoff]

theorem offText_of_neg {off : Byte} (hoff : off.toInt < 0) :
    offText off = "PC-0x".toList ++ hex2 (BitVec.ofNat 8 (-off.toInt).toNat) := by
  rw [ofNat_toNat_eq_ofInt (Int.neg_nonneg_of_nonpos (Int.le_of_lt hoff)), BitVec.ofInt_neg, BitVec.ofInt_toInt,
    offText, if_neg (Int.not_le.mpr hoff)]

theorem render_decodeRecord_of_brne {w : Word} (hw : w &&& 0xFC07#16 = 0xF401#16) :
    render (decodeRecord catalog w) = "BRNE ".toList ++ offText (rel7 w) := by
  rw [decodeRecord_of_and_eq brne_mem_catalog hw]
  rfl

/-! ## The statements -/

/-- Settles O32: mask and pattern give the form and the record, and the one word of an offset is its encoding; the
table's words and the neighbours compute. -/
theorem brneWord : Obligations.BrneWord := by
  refine ⟨matchForm_eq_form_iff_and_eq brne_mem_catalog, fun s w hs hw => ?_,
    fun _ hlow hhigh => existsUnique_matchForm_brne_and_toInt_rel7 hlow hhigh, by decide⟩
  intro off
  have hrel7 : off = (rel7 w).toInt := (toInt_rel7_eq_ite_bits w).symm
  rw [hrel7, BitVec.ofInt_toInt, render_decodeRecord_of_brne hw]
  refine ⟨step_of_completesWord_of_and_eq brne_mem_catalog hs hw, fun hoff => ?_, fun hoff => ?_⟩
  · rw [offText_of_nonneg hoff]
    rfl
  · rw [offText_of_neg hoff]
    rfl

/-- Settles O18: the encoding is the sum of the fields at their places, whatever the offset. -/
theorem brneCompletes : Obligations.BrneCompletes := by
  intro s off _ _
  have hraw : encode (.brne off) = BitVec.ofNat 16 (0xF401 + ((off.toInt - 1) % 128).toNat * 8) := by
    rw [← toNat_extractLsb'_sub_one]
    exact append_br7_eq_ofNat 0b111101#6 ((off - 1#8).extractLsb' 0 7) 0b001#3
  rw [← hraw]
  rfl

end Sys2Proof.Machine

/-! # The unrecognized word (spec/46_unrecognized.md R76) -/

namespace Sys2Proof

/-- No entry has the form UNKNOWN, so only the words that no entry takes have it (R43, R48). -/
theorem matchForm_eq_unknown_iff {w : Word} :
    matchForm catalog w = .unknown ↔ firstMatch catalog w = none := by
  unfold matchForm
  cases h : firstMatch catalog w with
  | none => exact iff_of_true rfl rfl
  | some e => exact iff_of_false (form_ne_unknown e (firstMatch_some h).1) (Option.some_ne_none e)

/-- The predicate of R76 is the model's test for a word that UNKNOWN may carry. -/
theorem matchForm_eq_unknown_iff_unmatched (w : Word) :
    matchForm catalog w = .unknown ↔ Instr.unmatched w = true :=
  matchForm_eq_unknown_iff.trans ⟨unmatched_of_firstMatch_none, firstMatch_eq_none_of_unmatched⟩

theorem unmatched_iff (w : Word) : Instr.unmatched w = true ↔
    w ≠ 0x0000#16 ∧
    w &&& 0xFC00#16 ∉ [0x2400#16, 0x2C00#16, 0x1400#16] ∧
    w &&& 0xF000#16 ∉ [0xE000#16, 0x3000#16] ∧
    w &&& 0xFF00#16 ≠ 0x9700#16 ∧
    w &&& 0xFE0F#16 ∉ [0x900D#16, 0x9009#16, 0x900E#16, 0x9403#16, 0x940A#16] ∧
    w &&& 0xFC07#16 ≠ 0xF401#16 := by
  simp only [Instr.unmatched, Bool.and_eq_true, bne_iff_ne, Bool.not_eq_true', List.contains_eq_mem,
    decide_eq_false_iff_not, and_assoc]

end Sys2Proof

namespace Sys2Proof.Machine

/-- An unrecognized word's record names no operand and carries the word (R49). -/
theorem decodeRecord_of_unknown {w : Word} (hw : matchForm catalog w = .unknown) :
    decodeRecord catalog w = recNone .unknown w :=
  decodeRecord_of_firstMatch_none (matchForm_eq_unknown_iff.mp hw)

/-- The cycle that completes an unrecognized word emits it as any word: the fault bit stays as it is. -/
theorem step_of_completesWord_of_unknown {s : State} {w : Word} (h : CompletesWord s w)
    (hw : matchForm catalog w = .unknown) :
    step s = .next (afterRecord (formCode .unknown) (recNone .unknown w) (wordTaken s)) := by
  rw [step_of_completesWord h, decodeRecord_of_unknown hw, acceptHigh_takeInput, emit_eq_afterRecord, recNone]

theorem render_decodeRecord_of_unknown {w : Word} (hw : matchForm catalog w = .unknown) :
    render (decodeRecord catalog w) = "Unknown 0x".toList ++ hex4 w := by
  rw [decodeRecord_of_unknown hw]
  rfl

/-- Settles O33: the tests of R76 are those of the entries, and a word that none takes has the record without operands;
the count is what the entries leave, and the examples compute. -/
theorem unknownWord : Obligations.UnknownWord :=
  ⟨fun w => (matchForm_eq_unknown_iff_unmatched w).trans (unmatched_iff w),
    fun _ _ hs hw => ⟨step_of_completesWord_of_unknown hs hw, render_decodeRecord_of_unknown hw⟩,
    wordCount_unknown,
    by decide⟩

/-- Settles O19: the record without operands carries the word, whether an entry matches it or not (log entry 7). -/
theorem unknownCompletes : Obligations.UnknownCompletes := fun _ _ => rfl

end Sys2Proof.Machine

/-! # The Renderer (spec/47_renderer.md R77 to R84) -/

namespace Sys2Proof

theorem toNat_eq_add_nibbles (b : Byte) :
    b.toNat = 16 * (b.extractLsb' 4 4).toNat + (b.extractLsb' 0 4).toNat := by
  simp only [BitVec.extractLsb'_toNat, Nat.shiftRight_eq_div_pow, Nat.reducePow, Nat.div_one]
  omega

theorem toNat_eq_add_bytes (w : Word) : w.toNat = 256 * (highByte w).toNat + (lowByte w).toNat := by
  have h := toNat_append_eq_add (highByte w) (lowByte w)
  rwa [show highByte w ++ lowByte w = w from wordOfBytes_low_high w] at h

end Sys2Proof

namespace Sys2Proof.Machine

/-! ## The digits (R78, R79, R81) -/

theorem hexDigit_mem : ∀ d : BitVec 4, hexDigit d ∈ "0123456789ABCDEF".toList := by decide

theorem idxOf_hexDigit : ∀ d : BitVec 4, "0123456789ABCDEF".toList.idxOf (hexDigit d) = d.toNat := by decide

theorem hex2_subset (b : Byte) : hex2 b ⊆ "0123456789ABCDEF".toList :=
  List.cons_subset.mpr ⟨hexDigit_mem _, List.cons_subset.mpr ⟨hexDigit_mem _, List.nil_subset _⟩⟩

theorem hex4_subset (w : Word) : hex4 w ⊆ "0123456789ABCDEF".toList :=
  List.append_subset.mpr ⟨hex2_subset _, hex2_subset _⟩

/-- Two more digits are one more byte, the least significant one. -/
theorem hexValue_append_hex2 (t : Text) (b : Byte) : hexValue (t ++ hex2 b) = 256 * hexValue t + b.toNat := by
  have hb := toNat_eq_add_nibbles b
  simp only [hexValue, hex2, List.foldl_append, List.foldl_cons, List.foldl_nil, idxOf_hexDigit]
  omega

theorem hexValue_hex2 (b : Byte) : hexValue (hex2 b) = b.toNat :=
  (hexValue_append_hex2 [] b).trans (Nat.zero_add _)

theorem hexValue_hex4 (w : Word) : hexValue (hex4 w) = w.toNat := by
  rw [hex4, hexValue_append_hex2, hexValue_hex2, ← toNat_eq_add_bytes]

theorem dec_of_lt_hundred {n : Nat} (hn : n < 100) :
    dec n = if n < 10 then [Nat.digitChar n] else [Nat.digitChar (n / 10), Nat.digitChar (n % 10)] := by
  have htens : n / 10 < 10 := by omega
  rw [dec, Nat.toDigits_eq_if (by decide), Nat.toDigits_of_lt_base htens]
  rfl

/-- Settles O56: a register index is below 100, so it has one or two decimal digits; each byte is read back from its two
digits, and a word from its two bytes. -/
theorem digitsReadBack : Obligations.DigitsReadBack :=
  ⟨fun r => congrArg ('R' :: ·) (dec_of_lt_hundred (by omega)),
    fun b => ⟨rfl, hex2_subset b, hexValue_hex2 b⟩,
    fun w => ⟨rfl, hex4_subset w, hexValue_hex4 w⟩⟩

/-! ## Each operand's text determines the operand -/

theorem hex2_injective : Function.Injective hex2 := fun a b h =>
  BitVec.eq_of_toNat_eq (by rw [← hexValue_hex2, h, hexValue_hex2])

theorem hex4_injective : Function.Injective hex4 := fun v w h =>
  BitVec.eq_of_toNat_eq (by rw [← hexValue_hex4, h, hexValue_hex4])

theorem dec_injective : Function.Injective dec :=
  Function.LeftInverse.injective (g := (Nat.ofDigitChars 10 · 0)) fun _ => Nat.ofDigitChars_ten_toDigits

theorem regText_injective : Function.Injective regText := fun _ _ h =>
  BitVec.eq_of_toNat_eq (dec_injective (List.append_cancel_left h))

theorem immText_injective : Function.Injective immText := fun _ _ h =>
  hex2_injective (List.append_cancel_left h)

/-- The sign tells the two halves apart, and the magnitude the offsets of one half. -/
theorem offText_injective : Function.Injective offText := by
  intro a b h
  unfold offText at h
  split at h <;> split at h
  · exact hex2_injective (List.append_cancel_left h)
  · simp at h
  · simp at h
  · exact BitVec.neg_inj.mp (hex2_injective (List.append_cancel_left h))

/-! ## A line is its mnemonic and its operands (R77, R83) -/

/-- The mnemonic of a form's line, `Unknown` for an unrecognized word. -/
def mnemonic : Form → Text
  | .nop => "NOP".toList
  | .clr => "CLR".toList
  | .ldi => "LDI".toList
  | .ldXinc | .ldYinc | .ldXdec => "LD".toList
  | .cpi => "CPI".toList
  | .brne => "BRNE".toList
  | .sbiw => "SBIW".toList
  | .cp => "CP".toList
  | .mov => "MOV".toList
  | .inc => "INC".toList
  | .dec => "DEC".toList
  | .unknown => "Unknown".toList

/-- The operand that the form alone gives: LD's pointer with its mode. -/
def pointerOperand : Form → List Text
  | .ldXinc => ["X+".toList]
  | .ldYinc => ["Y+".toList]
  | .ldXdec => ["-X".toList]
  | _ => []

/-- The operands that the fields of an instruction give. -/
def fieldOperands : Instr → List Text
  | .nop => []
  | .clr rd _ | .ldXinc rd | .ldYinc rd | .ldXdec rd | .inc rd | .dec rd => [regText rd]
  | .ldi rd k | .cpi rd k | .sbiw rd k => [regText rd, immText k]
  | .mov rd rr | .cp rd rr => [regText rd, regText rr]
  | .brne off => [offText off]
  | .unknown raw => ["0x".toList ++ hex4 raw]

/-- The operands of a line, in its order. -/
def operands (i : Instr) : List Text := fieldOperands i ++ pointerOperand i.form

/-- What follows the mnemonic: nothing, or one space and the operands with a comma between them. -/
def operandPart : List Text → Text
  | [] => []
  | op :: ops => ' ' :: [','].intercalate (op :: ops)

/-- The line of an instruction in the structure of R77. -/
def lineOf (i : Instr) : Text := mnemonic i.form ++ operandPart (operands i)

/-- The arms of R83 have the structure of R77. -/
theorem render_decodeRecord (w : Word) : render (decodeRecord catalog w) = lineOf (decode w) := by
  rw [recordOfEveryForm.1 w, decode]
  cases matchForm catalog w with
  | nop => rfl
  | _ =>
    simp [render, extractInstr, lineOf, Instr.form, mnemonic, operands, fieldOperands, pointerOperand, operandPart]

/-! ## The characters (R84) -/

/-- The characters of a mnemonic. -/
def upperChars : Text := "ABCDEFGHIJKLMNOPQRSTUVWXYZ".toList

/-- The characters of R84 without the lower-case letters of `Unknown`. -/
def plainChars : Text := upperChars ++ "x0123456789 ,+-".toList

/-- All characters of R84. -/
def lineChars : Text := "ABCDEFGHIJKLMNOPQRSTUVWXYZnkowx0123456789 ,+-".toList

/-- The characters of an operand: no space and no comma, which separate operands. -/
def operandChars : Text := upperChars ++ "x0123456789+-".toList

theorem plainChars_subset : plainChars ⊆ lineChars := by decide

theorem toNat_lt_of_mem_lineChars {c : Char} (hc : c ∈ lineChars) : c.toNat < 128 := by
  have h : lineChars.all (fun c => decide (c.toNat < 128)) = true := by decide
  exact of_decide_eq_true (List.all_eq_true.mp h c hc :)

theorem not_mem_lower_of_mem_plainChars {c : Char} (hc : c ∈ plainChars) : c ∉ "nkow".toList := by
  have h : plainChars.all (fun c => decide (c ∉ "nkow".toList)) = true := by decide
  exact of_decide_eq_true (List.all_eq_true.mp h c hc :)

theorem operandChars_subset : operandChars ⊆ plainChars := by decide

theorem mnemonic_subset {f : Form} (hf : f ≠ .unknown) : mnemonic f ⊆ upperChars := by
  have h : ∀ f ∈ forms, f ≠ .unknown → mnemonic f ⊆ upperChars := by decide
  exact h f (mem_forms f) hf

theorem mnemonic_ne_nil (f : Form) : mnemonic f ≠ [] := by
  have h : ∀ f ∈ forms, mnemonic f ≠ [] := by decide
  exact h f (mem_forms f)

theorem space_not_mem_mnemonic (f : Form) : ' ' ∉ mnemonic f := by
  have h : ∀ f ∈ forms, ' ' ∉ mnemonic f := by decide
  exact h f (mem_forms f)

theorem hexChars_subset : "0123456789ABCDEF".toList ⊆ operandChars := by decide

theorem digitChar_mem {n : Nat} (hn : n < 10) : Nat.digitChar n ∈ operandChars := by
  have h : ∀ n < 10, Nat.digitChar n ∈ operandChars := by decide
  exact h n hn

theorem regText_subset (r : RegIndex) : regText r ⊆ operandChars := by
  have hletter : 'R' ∈ operandChars := by decide
  rw [digitsReadBack.1 r]
  split <;> simp only [List.cons_subset, List.nil_subset, and_true]
  · exact ⟨hletter, digitChar_mem ‹_›⟩
  · exact ⟨hletter, digitChar_mem (by omega), digitChar_mem (by omega)⟩

theorem immText_subset (k : Byte) : immText k ⊆ operandChars :=
  List.append_subset.mpr ⟨by decide, List.Subset.trans (hex2_subset k) hexChars_subset⟩

theorem offText_subset (off : Byte) : offText off ⊆ operandChars := by
  unfold offText
  split <;> exact List.append_subset.mpr ⟨by decide, List.Subset.trans (hex2_subset _) hexChars_subset⟩

theorem fieldOperands_subset (i : Instr) : ∀ op ∈ fieldOperands i, op ⊆ operandChars := by
  cases i with
  | unknown raw =>
    exact List.forall_mem_singleton.mpr
      (List.append_subset.mpr ⟨by decide, List.Subset.trans (hex4_subset raw) hexChars_subset⟩)
  | _ => simp [fieldOperands, regText_subset, immText_subset, offText_subset]

theorem operands_subset (i : Instr) : ∀ op ∈ operands i, op ⊆ operandChars := by
  have hpointer : ∀ f ∈ forms, ∀ op ∈ pointerOperand f, op ⊆ operandChars := by decide
  exact List.forall_mem_append.mpr ⟨fieldOperands_subset i, hpointer i.form (mem_forms _)⟩

theorem intercalate_subset {sep chars : Text} (hsep : sep ⊆ chars) {ops : List Text}
    (hops : ∀ op ∈ ops, op ⊆ chars) : sep.intercalate ops ⊆ chars := by
  induction ops with
  | nil => exact List.nil_subset _
  | cons op ops ih =>
    obtain ⟨hop, hrest⟩ := List.forall_mem_cons.mp hops
    cases ops with
    | nil => rwa [List.intercalate_singleton]
    | cons op' ops =>
      rw [List.intercalate_cons_cons]
      exact List.append_subset.mpr ⟨List.append_subset.mpr ⟨hop, hsep⟩, ih hrest⟩

theorem operandPart_subset {ops : List Text} (hops : ∀ op ∈ ops, op ⊆ operandChars) :
    operandPart ops ⊆ plainChars := by
  cases ops with
  | nil => exact List.nil_subset _
  | cons op ops =>
    exact List.cons_subset.mpr
      ⟨by decide, intercalate_subset (by decide) fun t ht => List.Subset.trans (hops t ht) operandChars_subset⟩

/-- A line's characters before the first space are its mnemonic. -/
theorem takeWhile_lineOf (i : Instr) : (lineOf i).takeWhile (fun c => c != ' ') = mnemonic i.form := by
  have hmnemonic : ∀ c ∈ mnemonic i.form, (c != ' ') = true := fun c hc =>
    bne_iff_ne.mpr (ne_of_mem_of_not_mem hc (space_not_mem_mnemonic i.form))
  have hpart : (operandPart (operands i)).takeWhile (fun c => c != ' ') = [] := by
    cases operands i <;> rfl
  rw [lineOf, List.takeWhile_append_of_pos hmnemonic, hpart, List.append_nil]

/-! ### The length (95 V13) -/

/-- The length of operands, each with the space or comma before it. -/
def width (ops : List Text) : Nat := (ops.map (·.length + 1)).sum

theorem width_append (ops ops' : List Text) : width (ops ++ ops') = width ops + width ops' := by
  simp only [width, List.map_append, List.sum_append]

theorem length_operandPart (ops : List Text) : (operandPart ops).length = width ops := by
  cases ops with
  | nil => rfl
  | cons op ops =>
    induction ops generalizing op with
    | nil => simp [operandPart, width]
    | cons op' ops ih =>
      have hrest := ih op'
      simp only [operandPart, width, List.length_cons, List.map_cons, List.sum_cons, List.intercalate_cons_cons,
        List.length_append, List.length_nil] at hrest ⊢
      omega

theorem length_regText (r : RegIndex) : 2 ≤ (regText r).length ∧ (regText r).length ≤ 3 := by
  rw [digitsReadBack.1 r]
  split <;> simp

theorem length_offText (off : Byte) : (offText off).length = 7 := by
  unfold offText
  split <;> rfl

/-- What a recognized form puts on a line whatever the fields are. -/
theorem width_of_form {f : Form} (hf : f ≠ .unknown) :
    2 ≤ (mnemonic f).length + width (pointerOperand f) ∧ (mnemonic f).length + width (pointerOperand f) ≤ 5 := by
  have h : ∀ f ∈ forms, f ≠ .unknown →
      2 ≤ (mnemonic f).length + width (pointerOperand f) ∧
        (mnemonic f).length + width (pointerOperand f) ≤ 5 := by decide
  exact h f (mem_forms f) hf

/-- What the fields put on a line: a register 3 or 4 characters, an immediate 5, an offset 8, a raw word 7. -/
theorem width_fieldOperands {i : Instr} (hnop : i.form ≠ .nop) :
    3 ≤ width (fieldOperands i) ∧ width (fieldOperands i) ≤ 9 := by
  cases i with
  | nop => exact absurd rfl hnop
  | clr rd _ | ldXinc rd | ldYinc rd | ldXdec rd | inc rd | dec rd =>
    have hrd := length_regText rd
    change 3 ≤ (regText rd).length + 1 ∧ (regText rd).length + 1 ≤ 9
    omega
  | ldi rd k | cpi rd k | sbiw rd k =>
    have hrd := length_regText rd
    change 3 ≤ (regText rd).length + 1 + 5 ∧ (regText rd).length + 1 + 5 ≤ 9
    omega
  | mov rd rr | cp rd rr =>
    have hrd := length_regText rd
    have hrr := length_regText rr
    change 3 ≤ (regText rd).length + 1 + ((regText rr).length + 1) ∧
      (regText rd).length + 1 + ((regText rr).length + 1) ≤ 9
    omega
  | brne off =>
    have hoff := length_offText off
    change 3 ≤ (offText off).length + 1 ∧ (offText off).length + 1 ≤ 9
    omega
  | unknown raw =>
    change 3 ≤ 7 ∧ 7 ≤ 9
    decide

theorem length_lineOf (i : Instr) : 3 ≤ (lineOf i).length ∧ (lineOf i).length ≤ 14 := by
  have hlength : (lineOf i).length =
      (mnemonic i.form).length + width (pointerOperand i.form) + width (fieldOperands i) := by
    rw [lineOf, List.length_append, length_operandPart, operands, width_append]
    omega
  have hform (hf : i.form ≠ .unknown) := width_of_form hf
  have hfields (hf : i.form ≠ .nop) := width_fieldOperands hf
  cases i with
  | nop => decide
  | unknown raw =>
    have hraw : (lineOf (.unknown raw)).length = 14 := hlength.trans rfl
    omega
  | _ =>
    specialize hform nofun
    specialize hfields nofun
    omega

/-- The line of a recognized word has no lower-case letter but `x`. -/
theorem lineOf_subset {i : Instr} (hi : i.form ≠ .unknown) : lineOf i ⊆ plainChars :=
  List.append_subset.mpr
    ⟨List.Subset.trans (mnemonic_subset hi) (List.subset_append_left _ _), operandPart_subset (operands_subset i)⟩

theorem lineOf_subset_lineChars (i : Instr) : lineOf i ⊆ lineChars := by
  have hmnemonic : ∀ f ∈ forms, mnemonic f ⊆ lineChars := by decide
  exact List.append_subset.mpr
    ⟨hmnemonic i.form (mem_forms _), List.Subset.trans (operandPart_subset (operands_subset i)) plainChars_subset⟩

/-- Settles O57: the mnemonic and the operands are of the rule's characters, and the mnemonic ends where the first space
stands. -/
theorem lineCharacters : Obligations.LineCharacters := by
  intro w
  simp only [render_decodeRecord, takeWhile_lineOf, ← decode_form]
  exact ⟨fun c hc => ⟨lineOf_subset_lineChars _ hc, toNat_lt_of_mem_lineChars (lineOf_subset_lineChars _ hc)⟩,
    fun hw => ⟨fun c hc => not_mem_lower_of_mem_plainChars (lineOf_subset hw hc), mnemonic_ne_nil _,
      mnemonic_subset hw⟩,
    fun hw => congrArg mnemonic hw, length_lineOf _⟩

/-! ## Reading a line back (R83, 95 V8) -/

/-- Operands without commas are the parts between the commas. -/
theorem operandPart_inj {ops ops' : List Text} (hops : ∀ op ∈ ops, op ⊆ operandChars)
    (hops' : ∀ op ∈ ops', op ⊆ operandChars) (h : operandPart ops = operandPart ops') : ops = ops' := by
  have hcomma : ',' ∉ operandChars := by decide
  cases ops with
  | nil =>
    cases ops' with
    | nil => rfl
    | cons op' ops' => cases h
  | cons op ops =>
    cases ops' with
    | nil => cases h
    | cons op' ops' =>
      have htext : [','].intercalate (op :: ops) = [','].intercalate (op' :: ops') := List.tail_eq_of_cons_eq h
      rw [← List.splitOn_intercalate ',' (fun t ht hc => hcomma (hops t ht hc)) (List.cons_ne_nil op ops), htext,
        List.splitOn_intercalate ',' (fun t ht hc => hcomma (hops' t ht hc)) (List.cons_ne_nil op' ops')]

/-- Forms that share a mnemonic, those of LD, have one pointer operand each. -/
theorem length_pointerOperand_eq {f g : Form} (h : mnemonic f = mnemonic g) :
    (pointerOperand f).length = (pointerOperand g).length := by
  have hforms : ∀ f ∈ forms, ∀ g ∈ forms, mnemonic f = mnemonic g →
      (pointerOperand f).length = (pointerOperand g).length := by decide
  exact hforms f (mem_forms f) g (mem_forms g) h

/-- The pointer operand tells the forms of LD apart. -/
theorem form_eq_of_mnemonic_eq {f g : Form} (h : mnemonic f = mnemonic g)
    (hp : pointerOperand f = pointerOperand g) : f = g := by
  have hforms : ∀ f ∈ forms, ∀ g ∈ forms, mnemonic f = mnemonic g → pointerOperand f = pointerOperand g →
      f = g := by decide
  exact hforms f (mem_forms f) g (mem_forms g) h hp

/-- A line tells the form and the operands that the fields give. -/
theorem form_eq_and_fieldOperands_eq_of_lineOf_eq {i j : Instr} (h : lineOf i = lineOf j) :
    i.form = j.form ∧ fieldOperands i = fieldOperands j := by
  have hmnemonic : mnemonic i.form = mnemonic j.form := by
    rw [← takeWhile_lineOf, h, takeWhile_lineOf]
  have hpart : operandPart (operands i) = operandPart (operands j) := by
    rw [lineOf, lineOf, hmnemonic] at h
    exact List.append_cancel_left h
  have hoperands := operandPart_inj (operands_subset i) (operands_subset j) hpart
  obtain ⟨hfields, hpointer⟩ := List.append_inj' hoperands (length_pointerOperand_eq hmnemonic)
  exact ⟨form_eq_of_mnemonic_eq hmnemonic hpointer, hfields⟩

/-- Outside CLR the operands shown are all that a form takes from a word. -/
theorem extractInstr_eq_of_fieldOperands_eq {f : Form} (hf : f ≠ .clr) {v w : Word}
    (h : fieldOperands (extractInstr f v) = fieldOperands (extractInstr f w)) :
    extractInstr f v = extractInstr f w := by
  cases f with
  | nop => rfl
  | clr => exact absurd rfl hf
  | _ =>
    simpa [extractInstr, fieldOperands, regText_injective.eq_iff, immText_injective.eq_iff,
      offText_injective.eq_iff, hex4_injective.eq_iff] using h

/-- CLR shows its register. -/
theorem bits_eq_of_fieldOperands_clr_eq {v w : Word}
    (h : fieldOperands (extractInstr .clr v) = fieldOperands (extractInstr .clr w)) : bits v 8 4 = bits w 8 4 := by
  rw [← toNat_regD5, ← toNat_regD5, regText_injective (List.singleton_inj.mp h)]

/-- Settles O59: a line tells the form and the operands shown, and outside CLR these are the whole instruction, whose
encoding is the word. -/
theorem linesTellWordsApart : Obligations.LinesTellWordsApart := by
  intro v w
  constructor
  · intro h
    rw [render_decodeRecord, render_decodeRecord] at h
    obtain ⟨hform, hfields⟩ := form_eq_and_fieldOperands_eq_of_lineOf_eq h
    rw [decode_form, decode_form] at hform
    rw [decode, decode, hform] at hfields
    by_cases hclr : matchForm catalog w = .clr
    · rw [hclr] at hfields
      exact .inr ⟨hform.trans hclr, hclr, bits_eq_of_fieldOperands_clr_eq hfields⟩
    · have hdecode : decode v = decode w := by
        rw [decode, decode, hform]
        exact extractInstr_eq_of_fieldOperands_eq hclr hfields
      rw [← encode_decode v, hdecode, encode_decode]
      exact .inl rfl
  · rintro (rfl | ⟨hv, hw, hrd⟩)
    · rfl
    · rw [render_decodeRecord_of_clr ((matchForm_eq_clr_iff v).mp hv),
        render_decodeRecord_of_clr ((matchForm_eq_clr_iff w).mp hw), hrd]

end Sys2Proof.Machine

/-! # Exceptions, reset and hazards (spec/60_exceptions.md, spec/70_reset_and_hazards.md) -/

namespace Sys2Proof.Machine

/-! ## TruncatedStream (60_exceptions.md R87, R91, R93) -/

/-- No event drives the inputs that are still to come. -/
@[simp] theorem effect_pending (ev : CycleEvent) (s : State) : (ev.effect s).pending = s.pending := by
  cases ev <;> rfl

theorem comingEvent_of_rst {s : State} (h : (currentInput s).rst = true) : comingEvent s = .reset :=
  cycleEvent_of_rst h

theorem comingEvent_eq_truncated_iff {s : State} :
    comingEvent s = .truncated ↔ AcceptsByte s ∧ s.phase = .low ∧ (currentInput s).inLast = true := by
  constructor
  · intro h
    rcases comingEvent_cases s with ⟨-, he⟩ | ⟨-, -, he⟩ | ⟨-, -, -, he⟩ | ⟨ha, hp, hl, -⟩ | ⟨-, -, he⟩
    case inr.inr.inr.inl => exact ⟨ha, hp, hl⟩
    all_goals exact nomatch he.symm.trans h
  · rintro ⟨⟨hr, hv⟩, hp, hl⟩
    rw [comingEvent, hp, cycleEvent_low_last hr hv hl]

/-- Only a partnerless last byte sets the fault bit. -/
theorem eq_truncated_of_effect_errTruncated {ev : CycleEvent} {s : State} (hclear : s.errTruncated = false)
    (hset : (ev.effect s).errTruncated = true) : ev = .truncated := by
  cases ev with
  | truncated => rfl
  | reset => exact nomatch hset
  | idle | lowByte _ | word _ => exact nomatch hclear.symm.trans hset

/-- Only a completed word adds to the history. -/
theorem exists_eq_word_of_effect_emitted {ev : CycleEvent} {s : State} (h : (ev.effect s).emitted ≠ s.emitted) :
    ∃ w, ev = .word w := by
  cases ev with
  | word w => exact ⟨w, rfl⟩
  | reset | idle | lowByte _ | truncated => exact absurd rfl h

/-- The partnerless last byte is dropped and the fault bit is set. -/
theorem step_of_last_at_low {s : State} (ha : AcceptsByte s) (hp : s.phase = .low)
    (hl : (currentInput s).inLast = true) : step s = .next (raiseTruncatedStream .dropAndFlag (takeInput s)) := by
  rw [step_eq_effect, comingEvent_eq_truncated_iff.mpr ⟨ha, hp, hl⟩]
  rfl

/-- Settles O40: what the event `truncated` does, when it comes, and the parity of the stream's length. -/
theorem truncatedStreamRaised : Obligations.TruncatedStreamRaised := by
  refine ⟨fun s ha hp hl => step_of_last_at_low ha hp hl, fun s t h hclear hset => ?_, fun bytes => ?_⟩
  · rw [eq_effect_of_step h] at hset
    exact comingEvent_eq_truncated_iff.mp (eq_truncated_of_effect_errTruncated (s := takeInput s) hclear hset)
  · rw [decodeStream_hardware_err]
    simp

/-- A run whose cycles have no reset begins with a cycle without one; where none is coming, nothing is driven. -/
theorem rst_currentInput_of_take {s : State} {n : Nat} (h : ∀ c ∈ s.pending.take (n + 1), c.rst = false) :
    (currentInput s).rst = false := by
  cases hp : s.pending with
  | nil => rw [currentInput_nil hp]; rfl
  | cons c cs =>
    rw [currentInput_cons hp]
    exact h c (by rw [hp]; exact List.mem_cons_self)

/-- Settles O42, by induction on the length of the run: a cycle without reset keeps the bit. -/
theorem faultBitIsSticky : Obligations.FaultBitIsSticky := by
  refine ⟨fun n => ?_, fun s hset hp ha hl => ⟨_, step_of_last_at_low ha hp hl, rfl, hp⟩⟩
  induction n with
  | zero =>
    intro s t _ hset hrun
    obtain rfl : s = t := Host.Outcome.next.inj hrun
    exact hset
  | succ n ih =>
    intro s t hrst hset hrun
    have hstep := step_eq_effect s
    have hset' := errTruncated_of_step hstep
    rw [hset, rst_currentInput_of_take hrst] at hset'
    rw [run_succ_of_step hstep] at hrun
    refine ih _ t (fun c hc => hrst c (List.mem_of_mem_tail ?_)) hset' hrun
    rwa [List.tail_take_eq_take_tail, Nat.add_sub_cancel, ← takeInput_pending, ← effect_pending (comingEvent s)]

/-- Settles O43: the bit is set by the event `truncated` alone, and a record comes with the event `word` alone. -/
theorem conditionsNeverCoincide : Obligations.ConditionsNeverCoincide := by
  intro s t h
  obtain rfl := eq_effect_of_step h
  refine ⟨fun hclear hset => ?_, fun hemitted => ?_, fun hrst => ?_⟩
  · rw [eq_truncated_of_effect_errTruncated (s := takeInput s) hclear hset]
    exact ⟨rfl, rfl⟩
  · obtain ⟨w, hw⟩ := exists_eq_word_of_effect_emitted hemitted
    rw [hw]
    rfl
  · rw [comingEvent_of_rst hrst]
    exact ⟨rfl, rfl⟩

/-! ## The source of bytes stops early (60_exceptions.md R94) -/

/-- With no coming cycle a step changes the outputs alone. -/
theorem step_of_pending_nil {s : State} (h : s.pending = []) :
    step s = .next { s with out := noRecord s.errTruncated } := by
  have hevent : comingEvent s = .idle := by
    rw [comingEvent, currentInput_nil h]
    exact cycleEvent_of_not_valid rfl rfl
  have htaken : takeInput s = s := by rw [takeInput, h, List.tail_nil, ← h]
  rw [step_eq_effect, hevent, htaken]
  rfl

/-- Settles O46, by induction on the number of steps: each finds the same state up to the outputs. -/
theorem blockWaitsWithStateUnchanged : Obligations.BlockWaitsWithStateUnchanged := by
  intro n
  induction n with
  | zero =>
    intro s h
    rw [run_succ_of_step (step_of_pending_nil h), run_zero]
  | succ n ih =>
    intro s h
    rw [run_succ_of_step (step_of_pending_nil h)]
    exact ih _ h

/-! ## Reset (70_reset_and_hazards.md R99, R100) -/

theorem step_of_rst {s : State} (h : (currentInput s).rst = true) : step s = .next (resetCycle (takeInput s)) := by
  rw [step_eq_effect, comingEvent_of_rst h]
  rfl

/-- Settles O44 (the obligation's own name is the model's operation): a reset cycle is `resetCycle`, and the bit's
equation leaves no other way to clear it. -/
theorem resetCycle_of_rst : Obligations.ResetCycle := by
  refine ⟨fun s hrst => ⟨_, _, step_of_rst hrst⟩, fun s t h hset hclear => ?_⟩
  have hbit := errTruncated_of_step h
  rw [hset, hclear] at hbit
  simpa using hbit

/-- At `phase` 0 a byte that is not marked is held. -/
theorem step_of_byte_at_low {s : State} (ha : AcceptsByte s) (hp : s.phase = .low)
    (hl : (currentInput s).inLast = false) : step s = .next (holdLow (currentInput s).inByte (takeInput s)) := by
  obtain ⟨hr, hv⟩ := ha
  rw [step_eq_effect, comingEvent, hp, cycleEvent_low hr hv hl]
  rfl

/-- Settles O45: after `resetCycle` the block is at `phase` 0, where the next byte is held. -/
theorem resetDiscardsTheHeldByte : Obligations.ResetDiscardsTheHeldByte := by
  intro s t _ hrst h
  obtain rfl := Host.Outcome.next.inj ((step_of_rst hrst).symm.trans h)
  exact ⟨rfl, rfl, rfl, fun ha hl => ⟨_, step_of_byte_at_low ha rfl hl, rfl, rfl, rfl⟩⟩

/-! ## Bytes without a mark (R104; 60_exceptions.md R94) -/

theorem presented_cons (c : PortIn) (cs : List PortIn) : presented (c :: cs) = presented [c] ++ presented cs :=
  List.filterMap_append (l := [c])

/-- A cycle without reset and without a marked byte. -/
def Unmarked (c : PortIn) : Prop := c.rst = false ∧ (c.inValid = true → c.inLast = false)

/-- From `s` to `t` the block takes `bytes` behind the held one: it raises nothing, emits the records of a front of even
length and holds what is left. -/
def Assembles (s t : State) (bytes : List Byte) : Prop :=
  t.errTruncated = s.errTruncated ∧ ∃ front : List Byte, front.length % 2 = 0 ∧
    heldBytes s ++ bytes = front ++ heldBytes t ∧
    t.emitted = s.emitted ++ (words front).map (decodeRecord catalog)

theorem assembles_nil_of_eq {s t : State} (herr : t.errTruncated = s.errTruncated)
    (hheld : heldBytes t = heldBytes s) (hemitted : t.emitted = s.emitted) : Assembles s t [] :=
  ⟨herr, [], rfl, by rw [hheld, List.append_nil, List.nil_append], by simpa using hemitted⟩

theorem assembles_holdLow {s : State} (b : Byte) (hlow : s.phase = .low) : Assembles s (holdLow b s) [b] := by
  refine ⟨rfl, [], rfl, ?_, (List.append_nil _).symm⟩
  rw [heldBytes_of_low hlow]
  rfl

theorem assembles_word {s : State} (b : Byte) (hhigh : s.phase = .high) :
    Assembles s (emit (decodeRecord catalog (wordOfBytes s.lo b)) (acceptHigh s)) [b] := by
  refine ⟨rfl, [s.lo, b], Nat.mod_self 2, ?_, rfl⟩
  rw [heldBytes_of_high hhigh]
  rfl

theorem Assembles.trans {s t u : State} {a b : List Byte} (hst : Assembles s t a) (htu : Assembles t u b) :
    Assembles s u (a ++ b) := by
  obtain ⟨herr, f, hf, hbytes, hemitted⟩ := hst
  obtain ⟨herr', g, hg, hbytes', hemitted'⟩ := htu
  refine ⟨herr'.trans herr, f ++ g, ?_, ?_, ?_⟩
  · rw [List.length_append]
    omega
  · rw [← List.append_assoc, hbytes, List.append_assoc, hbytes', List.append_assoc]
  · rw [hemitted', hemitted, words_append_of_even hf, List.map_append, List.append_assoc]

/-- An unmarked cycle takes the byte it presents, if it presents one. -/
theorem step_assembles {s : State} (h : Unmarked (currentInput s)) :
    ∃ t, step s = .next t ∧ t.pending = s.pending.tail ∧
      Assembles s t ((presented [currentInput s]).map Prod.fst) := by
  obtain ⟨hrst, hunmarked⟩ := h
  refine ⟨_, step_eq_effect s, effect_pending _ _, ?_⟩
  rcases comingEvent_cases s with ⟨hrst', -⟩ | ⟨-, hvalid, hevent⟩ | ⟨⟨-, hvalid⟩, hphase, -, hevent⟩ |
    ⟨⟨-, hvalid⟩, -, hlast, -⟩ | ⟨⟨-, hvalid⟩, hphase, hevent⟩
  · exact nomatch hrst.symm.trans hrst'
  · rw [hevent, presented_cons_idle hvalid]
    exact assembles_nil_of_eq rfl rfl rfl
  · rw [hevent, presented_cons_valid hvalid]
    exact assembles_holdLow (s := takeInput s) _ hphase
  · exact nomatch (hunmarked hvalid).symm.trans hlast
  · rw [hevent, presented_cons_valid hvalid]
    exact assembles_word (s := takeInput s) _ hphase

/-- Unmarked cycles take the bytes they present, one cycle after the other. -/
theorem run_assembles {s : State} {cs rest : List PortIn} (hpending : s.pending = cs ++ rest)
    (hunmarked : ∀ c ∈ cs, Unmarked c) :
    ∃ t, Sys2Proof.core.run cs.length s = .next t ∧ t.pending = rest ∧
      Assembles s t ((presented cs).map Prod.fst) := by
  induction cs generalizing s with
  | nil => exact ⟨s, run_zero s, hpending, assembles_nil_of_eq rfl rfl rfl⟩
  | cons c cs ih =>
    obtain rfl : currentInput s = c := currentInput_cons hpending
    obtain ⟨hc, hcs⟩ := List.forall_mem_cons.mp hunmarked
    obtain ⟨u, hstep, htail, hsu⟩ := step_assembles hc
    rw [hpending] at htail
    obtain ⟨t, hrun, hrest, hut⟩ := ih htail hcs
    refine ⟨t, (run_succ_of_step hstep).trans hrun, hrest, ?_⟩
    rw [presented_cons, List.map_append]
    exact hsu.trans hut

theorem unmarked_of_presented {cs : List PortIn} {bytes : List Byte} (hrst : ∀ c ∈ cs, c.rst = false)
    (hpresented : presented cs = bytes.map fun b => (b, false)) : ∀ c ∈ cs, Unmarked c := by
  refine fun c hc => ⟨hrst c hc, fun hvalid => ?_⟩
  have hmem : (c.inByte, c.inLast) ∈ presented cs := List.mem_filterMap.mpr ⟨c, hc, if_pos hvalid⟩
  rw [hpresented] at hmem
  obtain ⟨b, -, hb⟩ := List.mem_map.mp hmem
  exact (congrArg Prod.snd hb).symm

/-- From `phase` 0 the records are those of the pairs of the bytes, and a held byte is the odd last one. -/
theorem Assembles.of_low {s t : State} {bytes : List Byte} (h : Assembles s t bytes) (hlow : s.phase = .low) :
    t.emitted = s.emitted ++ (words bytes).map (decodeRecord catalog) ∧
      (t.phase = .high ↔ bytes.length % 2 = 1) ∧ (bytes.length % 2 = 1 → some t.lo = bytes.getLast?) := by
  obtain ⟨-, front, heven, hbytes, hemitted⟩ := h
  rw [heldBytes_of_low hlow, List.nil_append] at hbytes
  rw [hbytes, words_append_of_even heven, hemitted, List.length_append]
  cases hphase : t.phase with
  | low => simp [heldBytes_of_low hphase, heven]
  | high =>
    have hodd : (front.length + 1) % 2 = 1 := by omega
    simp [heldBytes_of_high hphase, hodd]

/-- Settles O52: the cycles are unmarked, and they present `bytes`. -/
theorem unmarkedBytesArePairedAcrossStreams : Obligations.UnmarkedBytesArePairedAcrossStreams := by
  intro s bytes cs rest hphase hpending hrst hpresented
  obtain ⟨t, hrun, hrest, htaken⟩ := run_assembles hpending (unmarked_of_presented hrst hpresented)
  have hbytes : (presented cs).map Prod.fst = bytes := by
    rw [hpresented, List.map_map]
    exact List.map_id _
  rw [hbytes] at htaken
  have ⟨herr, _⟩ := htaken
  obtain ⟨hemitted, hheld, hlo⟩ := htaken.of_low hphase
  exact ⟨t, hrun, hrest, hemitted, herr, hheld, hlo⟩

end Sys2Proof.Machine
